-- ==== Sys2Proof/Word.lean ====
section
/-! DEFINITION. The word types of the musicBox CORE (spec/00_scope.md R7, R10) and the two plainest
conversions between them (spec/30_encoding.md R72). No value of the CORE is signed. -/

namespace Sys2Proof

/-- PHASE_W = WRAP_W = 16 bits (R7); also the width of RSP (R32) and of the data field (R70). -/
abbrev Word16 := BitVec 16

/-- DUTY_W = 8 bits (R7). -/
abbrev Duty := BitVec 8

/-- CODE_W = 3 bits (R7): the switch code, which is the table index (R78). -/
abbrev Code := BitVec 3

/-- A command word, `cmd_word[23:0]` (R70). -/
abbrev CmdWord := BitVec 24

/-- `zext_16` of a switch code (R11, R72). -/
def zext16 (c : Code) : Word16 := c.setWidth 16

end Sys2Proof
end

