-- ==== Sys2Proof/Syntax.lean ====
section
/-! DEFINITION. The syntax: one constructor of `Instr` per row of spec/opcode_table.json
(spec/30_encoding.md R73), the steps of the hardware agents (spec/44_host_sequences.md R222), and the
inputs a step of the model reads: a command, an agent's step, a reset, or one clock edge of the
cycle-level view (spec/70_reset_and_hazards.md R282). -/

namespace Sys2Proof

/-- The fifteen commands (R73). Operands are the unsigned fields of the data forms (R71, R72). -/
inductive Instr where
  | nop
  | ptConfig
  | ptSetWrap (ticks : Word16)
  | ptStart
  | ptStop
  | ptReadPhase
  | pwmConfig
  | pwmSetDuty (value : Duty)
  | pwmStart
  | pwmStop
  | synStep
  | selRead
  | selLookup (code : Code)
  | selApply (code : Code)
  | selApplySw
  deriving DecidableEq, Repr

/-- The mnemonic of a command, as R73 and the opcode table spell it. -/
def Instr.mnemonic : Instr → String
  | .nop => "NOP"
  | .ptConfig => "PT_CONFIG"
  | .ptSetWrap _ => "PT_SET_WRAP"
  | .ptStart => "PT_START"
  | .ptStop => "PT_STOP"
  | .ptReadPhase => "PT_READ_PHASE"
  | .pwmConfig => "PWM_CONFIG"
  | .pwmSetDuty _ => "PWM_SET_DUTY"
  | .pwmStart => "PWM_START"
  | .pwmStop => "PWM_STOP"
  | .synStep => "SYN_STEP"
  | .selRead => "SEL_READ"
  | .selLookup _ => "SEL_LOOKUP"
  | .selApply _ => "SEL_APPLY"
  | .selApplySw => "SEL_APPLY_SW"

/-- A command of the frequency_selector_mux: the ones R73 marks "V2". -/
def Instr.isSelector : Instr → Bool
  | .nop => false
  | .ptConfig => false
  | .ptSetWrap _ => false
  | .ptStart => false
  | .ptStop => false
  | .ptReadPhase => false
  | .pwmConfig => false
  | .pwmSetDuty _ => false
  | .pwmStart => false
  | .pwmStop => false
  | .synStep => false
  | .selRead => true
  | .selLookup _ => true
  | .selApply _ => true
  | .selApplySw => true

/-- A read command: one that writes RSP (R32). -/
def Instr.isRead : Instr → Bool
  | .nop => false
  | .ptConfig => false
  | .ptSetWrap _ => false
  | .ptStart => false
  | .ptStop => false
  | .ptReadPhase => true
  | .pwmConfig => false
  | .pwmSetDuty _ => false
  | .pwmStart => false
  | .pwmStop => false
  | .synStep => false
  | .selRead => true
  | .selLookup _ => true
  | .selApply _ => false
  | .selApplySw => true

/-- A step of one of the autonomous agents PhaseTick, PwmCarrier and SwitchEnv (R222). -/
inductive HwStep where
  | tick
  | carrier
  | switches (level : Code)
  deriving DecidableEq, Repr, Inhabited

/-- What one step of the model performs. `command`, `hw` and `reset` are the steps of the event-level
model (R222); `edge` is one rising clk edge of the cycle-level view with the levels of rst, of
cmd_valid and cmd_word (absent when cmd_valid = 0) and of sw at that edge (R41, R282). -/
inductive Input where
  | command (word : CmdWord)
  | hw (step : HwStep)
  | reset
  | edge (rst : Bool) (cmd : Option CmdWord) (sw : Code)
  deriving DecidableEq, Repr

end Sys2Proof
end

