-- ==== Sys2Proof/Config.lean ====
section
/-! DEFINITION. The implementation parameters of spec/00_scope.md R8, as plain data, and the free
values: constants with no body, so that a claim about one holds whatever it is. -/

namespace Sys2Proof

/-- VARIANT (R3, R8): 1 has no frequency_selector_mux, 2 has it. -/
inductive Variant where
  | one
  | two
  deriving DecidableEq, Repr

/-- WRAP_COMPARE (R8, R105, R106): how the phase counter wraps. -/
inductive WrapCompare where
  | ge
  | eq
  deriving DecidableEq, Repr

/-- PWM_COMPARE (R8, R135): when the pin is high inside a carrier cycle. -/
inductive PwmCompare where
  | lt
  | le
  deriving DecidableEq, Repr

/-- SINE_MAP (R8, R162): the reference function duty_ref of R161, or ANY function that keeps the laws
L1 to L3. By L2 and L3 such a function is fixed by its values at the pairs (p mod W, W), and by L1 each
of these is the lower or the upper neighbour of v: `roundUp` lists the pairs at which it is the upper
one. There are 2^32 pairs at most, so every function that R162 admits is named by some list, and every
list names one (log 4). -/
inductive SineMap where
  | dutyRef
  | conforming (roundUp : List (Word16 × Word16))
  deriving DecidableEq, Repr

/-- A frequency in Hz, the positive rational `num / den` (R8, R190; spec/92_eei_decisions.md D35). -/
structure Freq where
  num : Nat
  den : Nat
  deriving DecidableEq, Repr

/-- The parameters of R8. `fClk` is F_CLK; the tick rate R is F_CLK / PT_PRESCALE. In VARIANT 1 the
fields `freqTable` and `swSyncStages` have no meaning (R42). -/
structure Config where
  variant : Variant
  fClk : Freq
  ptPrescale : Nat
  pwmPrescale : Nat
  freqTable : Vector Freq 8
  sineMap : SineMap
  wrapCompare : WrapCompare
  pwmCompare : PwmCompare
  pwmIdleLevel : Bool
  swSyncStages : Nat
  deriving DecidableEq, Repr

/-- Free value: the 16 bits `draw_16()` gives PHASE at PT_STOP (R103), one for each draw (log 2). -/
opaque Config.freePhase : Nat → Word16

/-- Free value: the agent that steps when nothing is scheduled (R222: "any enabled agent may take the
next step"), one for each draw (log 6). -/
opaque Config.freeAgent : Nat → HwStep

end Sys2Proof
end

