-- ==== Sys2Proof/Machine/Period.lean ====
section
/-! DEFINITION. Frequencies and periods of the frequency_selector_mux: the tick rate (R8), PERIOD
(spec/43_frequency_selector_mux.md R190) and PERIOD_TABLE (R191), in exact arithmetic on fractions
(spec/00_scope.md R12). -/

namespace Sys2Proof

/-- The tick rate R = F_CLK / PT_PRESCALE (R8, R109). -/
def tickRate (c : Config) : Freq := ⟨c.fClk.num, c.fClk.den * c.ptPrescale⟩

/-- PERIOD(f) = floor(R / f + 1/2) at the tick rate `r` (R190), over a common denominator. -/
def period (r f : Freq) : Nat :=
  (2 * (r.num * f.den) + r.den * f.num) / (2 * (r.den * f.num))

/-- A usable wrap period: 1 to 65535 (R22, R190). -/
def usablePeriod (n : Nat) : Bool := 1 ≤ n && n ≤ 65535

/-- FREQ_TABLE[code] (R79: the code is the index). -/
def tableFreq (c : Config) (code : Code) : Freq := c.freqTable.get code.toFin

/-- PERIOD_TABLE[code] = PERIOD(FREQ_TABLE[code]) (R35, R191), 16 bits wide. -/
def periodTable (c : Config) (code : Code) : Word16 :=
  BitVec.ofNat 16 (period (tickRate c) (tableFreq c code))

/-- F_V1, the variant-1 tone frequency 600 Hz (R7). -/
def freqV1 : Freq := ⟨600, 1⟩

/-- The number of SYNC stages that exist: none in VARIANT 1 (R33, R42). -/
def syncStages (c : Config) : Nat :=
  match c.variant with
  | .one => 0
  | .two => c.swSyncStages

/-- The width of a prescaler counter, ceil(log2 n) and at least 1 (spec/10_state.md §1). -/
def prescalerWidth (n : Nat) : Nat := max 1 (Nat.clog 2 n)

end Sys2Proof
end

