-- ==== Sys2Proof/WellFormed.lean ====
section
/-! DEFINITION. Well-formedness: of a configuration (spec/00_scope.md R9), which the model refuses
otherwise, and of a command in a variant (spec/30_encoding.md R74). Operands need no check: their
types have the widths of R71. -/

namespace Sys2Proof

/-- R9, first point: R > 0, PT_PRESCALE >= 1, PWM_PRESCALE >= 1. -/
def Config.ratesWf (c : Config) : Bool :=
  0 < c.fClk.num && 0 < c.fClk.den && 1 ≤ c.ptPrescale && 1 ≤ c.pwmPrescale

/-- One entry of R9's second point: a positive frequency whose period is in 1..65535. -/
def Config.freqWf (c : Config) (f : Freq) : Bool :=
  0 < f.num && 0 < f.den && usablePeriod (period (tickRate c) f)

/-- R9, second and third point: every table entry in VARIANT 2, 600 Hz in VARIANT 1. -/
def Config.tableWf (c : Config) : Bool :=
  match c.variant with
  | .one => c.freqWf freqV1
  | .two => c.freqTable.toList.all c.freqWf

/-- A configuration is well formed only when all points of R9 hold. -/
def Config.wf (c : Config) : Bool := c.ratesWf && c.tableWf

/-- A command exists in a variant: the selector's commands are built in VARIANT 2 only (R42, R74). -/
def Instr.wf (v : Variant) (i : Instr) : Bool :=
  match v with
  | .one => !i.isSelector
  | .two => true

end Sys2Proof
end

