-- ==== Sys2Proof/Decode.lean ====
section
/-! DEFINITION. The decoder, total over all 2^24 words and refusing by name (spec/30_encoding.md R70
to R77), and after it the encoder (R70, R71, R73). -/

namespace Sys2Proof

/-- Why a word is illegal (R75). -/
inductive IllegalReason where
  /-- z = word[19:16] is not 0. -/
  | nonzeroZ
  /-- op = 0xF. -/
  | reservedOpcode
  /-- op = 0xB to 0xE in VARIANT 1. -/
  | variantGated
  /-- a must-be-zero bit of the data form is 1. -/
  | nonzeroData
  deriving DecidableEq, Repr

/-- Every word decodes to exactly one command or to Illegal (R77). -/
inductive Decoded where
  | cmd (i : Instr)
  | illegal (why : IllegalReason)
  deriving DecidableEq, Repr

/-- bits 23:20 (R70) -/
def opField (w : CmdWord) : BitVec 4 := w.extractLsb' 20 4
/-- bits 19:16 (R70) -/
def zField (w : CmdWord) : BitVec 4 := w.extractLsb' 16 4
/-- bits 15:0 (R70) -/
def dataField (w : CmdWord) : Word16 := w.extractLsb' 0 16

/-- Form Z: no operand, all data bits must be zero (R71). -/
def formZ (data : Word16) (i : Instr) : Decoded :=
  if data = 0 then .cmd i else .illegal .nonzeroData

/-- Form D16: `ticks = data[15:0]` (R71). -/
def formD16 (data : Word16) (mk : Word16 → Instr) : Decoded := .cmd (mk data)

/-- Form D8: `value = data[7:0]`, data[15:8] must be zero (R71). -/
def formD8 (data : Word16) (mk : Duty → Instr) : Decoded :=
  if data.extractLsb' 8 8 = 0 then .cmd (mk (data.extractLsb' 0 8)) else .illegal .nonzeroData

/-- Form C3: `code = data[2:0]`, data[15:3] must be zero (R71). -/
def formC3 (data : Word16) (mk : Code → Instr) : Decoded :=
  if data.extractLsb' 3 13 = 0 then .cmd (mk (data.extractLsb' 0 3)) else .illegal .nonzeroData

/-- Opcodes 0xB to 0xE, which VARIANT 1 does not have (R74). -/
def gatedOp (op : BitVec 4) : Bool := 0xB ≤ op.toNat && op.toNat ≤ 0xE

/-- The opcode map with each opcode's data form (R71, R73). -/
def decodeOp (op : BitVec 4) (data : Word16) : Decoded :=
  match op with
  | 0x0#4 => formZ data .nop
  | 0x1#4 => formZ data .ptConfig
  | 0x2#4 => formD16 data .ptSetWrap
  | 0x3#4 => formZ data .ptStart
  | 0x4#4 => formZ data .ptStop
  | 0x5#4 => formZ data .ptReadPhase
  | 0x6#4 => formZ data .pwmConfig
  | 0x7#4 => formD8 data .pwmSetDuty
  | 0x8#4 => formZ data .pwmStart
  | 0x9#4 => formZ data .pwmStop
  | 0xA#4 => formZ data .synStep
  | 0xB#4 => formZ data .selRead
  | 0xC#4 => formC3 data .selLookup
  | 0xD#4 => formC3 data .selApply
  | 0xE#4 => formZ data .selApplySw
  | _ => .illegal .reservedOpcode

/-- R77's `decode(w, VARIANT)`, its checks in R77's order. -/
def decode (v : Variant) (w : CmdWord) : Decoded :=
  if zField w ≠ 0 then .illegal .nonzeroZ
  else if opField w = 0xF then .illegal .reservedOpcode
  else if gatedOp (opField w) && v == .one then .illegal .variantGated
  else decodeOp (opField w) (dataField w)

/-- Word value = `{op, z, data}` with z = 0 (R70). -/
def assembleWord (op : BitVec 4) (data : Word16) : CmdWord := op ++ (0#4 ++ data)

/-- The opcode of a command (R73). -/
def opcodeOf : Instr → BitVec 4
  | .nop => 0x0
  | .ptConfig => 0x1
  | .ptSetWrap _ => 0x2
  | .ptStart => 0x3
  | .ptStop => 0x4
  | .ptReadPhase => 0x5
  | .pwmConfig => 0x6
  | .pwmSetDuty _ => 0x7
  | .pwmStart => 0x8
  | .pwmStop => 0x9
  | .synStep => 0xA
  | .selRead => 0xB
  | .selLookup _ => 0xC
  | .selApply _ => 0xD
  | .selApplySw => 0xE

/-- The data field of a command: its operand, zero-extended (R71). -/
def operandData : Instr → Word16
  | .nop => 0
  | .ptConfig => 0
  | .ptSetWrap ticks => ticks
  | .ptStart => 0
  | .ptStop => 0
  | .ptReadPhase => 0
  | .pwmConfig => 0
  | .pwmSetDuty value => value.setWidth 16
  | .pwmStart => 0
  | .pwmStop => 0
  | .synStep => 0
  | .selRead => 0
  | .selLookup code => zext16 code
  | .selApply code => zext16 code
  | .selApplySw => 0

/-- The one word of a command (R70, R73). -/
def encode (i : Instr) : CmdWord := assembleWord (opcodeOf i) (operandData i)

/-- The command word the opcode table's bit numbering gives: a command is one 24-bit word, so the
table's number IS the word (R51: word-parallel, no bytes). -/
def wordOfTable (nbits w : Nat) : CmdWord := BitVec.ofNat 24 (w % 2 ^ nbits)

/-- The instruction the decoder reads from a table row's word. The table lists VARIANT 2's rows too,
so the word is decoded as VARIANT 2 decodes it. -/
def decodeTableWord (nbits w : Nat) : Option Instr :=
  match decode .two (wordOfTable nbits w) with
  | .cmd i => some i
  | .illegal _ => none

end Sys2Proof
end

