-- ==== Sys2Proof/Machine/State.lean ====
section
/-! DEFINITION. The state of the CORE (spec/10_state.md R20 to R38), as plain data, the model's fault
kinds (spec/60_exceptions.md R242), the reasons to refuse a step (spec/00_scope.md R9, R13), and the
launch state (spec/70_reset_and_hazards.md R270). The CORE has no memory (spec/20_memory.md R50), no
program counter (R37) and no general register (R36), so there is no field for one. -/

namespace Sys2Proof.Machine

/-- The kinds of fault (R242). A fault is RECORDED in FAULTS and the machine goes on with the host's
next command (R243, R246): `exec` and `step` then answer `next`, never `Outcome.fault`, which no
definition of this model answers. What a built CORE does on a faulting command is not specified
(R245), so going on is unsafe for a claim that reads the state after a fault: such a claim is about
the model's record only, and Safety.lean's good runs have no fault (log 1). -/
inductive Fault where
  /-- Code 1. Raised by PT_SET_WRAP #0, and by PT_START and SYN_STEP while WRAP = 0. -/
  | wrapZero
  /-- Code 2. Raised by PT_START while PT_CFG = 0 and by PWM_START while PWM_CFG = 0. -/
  | unconfigured
  /-- Code 3. Raised by a word that decodes as Illegal, and by the selector's commands in VARIANT 1. -/
  | illegalCommand
  deriving DecidableEq, Repr

/-- Why a step has no meaning. -/
inductive Refusal where
  /-- No meaning yet for the instruction. No arm of `exec` answers it. Safe: nothing is claimed. -/
  | notModelled (mnemonic : String)
  /-- Raised by `step` when the configuration is not well formed (R9, R13). Safe: the spec gives such
  a configuration no meaning. -/
  | illFormedConfig
  deriving DecidableEq, Repr

/-- One record of FAULTS: the kind, the command index and the command word (R38, R242). -/
structure FaultRecord where
  kind : Fault
  index : Nat
  word : CmdWord
  deriving DecidableEq, Repr

/-- Everything the spec gives the machine, and three fields of the model's own (`cmdIndex` for R242's
command index, `inputs` for the schedule of R222, `draws` counting the free values taken). -/
structure State where
  /-- the parameters of R8; no step changes them -/
  cfg : Config
  /-- PHASE, R20 -/
  phase : Word16
  /-- WRAP, R22; 0 means unprogrammed -/
  wrap : Word16
  /-- PT_CFG, R23 -/
  ptCfg : Bool
  /-- PT_RUN, R24 -/
  ptRun : Bool
  /-- PT_PRE, R25: counts 0 to PT_PRESCALE - 1 -/
  ptPre : Nat
  /-- DUTY_BUF, R26 -/
  dutyBuf : Duty
  /-- DUTY_ACT, R27 -/
  dutyAct : Duty
  /-- CARRIER, R28 -/
  carrier : BitVec 8
  /-- PWM_CFG, R29 -/
  pwmCfg : Bool
  /-- PWM_RUN, R30 -/
  pwmRun : Bool
  /-- PWM_PRE, R31: counts 0 to PWM_PRESCALE - 1 -/
  pwmPre : Nat
  /-- RSP, R32, driven on rsp_data -/
  rsp : Word16
  /-- rsp_valid, R32 -/
  rspValid : Bool
  /-- the level of the switch inputs sw[2:0], R33 -/
  sw : Code
  /-- SYNC[1], ..., SYNC[SW_SYNC_STAGES], R33 -/
  sync : List Code
  /-- FAULTS, R38, oldest first -/
  faults : List FaultRecord
  /-- the position of the command being performed in the host's stream, R242; 0 before the first -/
  cmdIndex : Nat
  /-- the steps still to be performed, next first: the host's commands and the agents' steps, R222 -/
  inputs : List Input
  /-- how many free values have been taken -/
  draws : Nat
  deriving DecidableEq, Repr

/-- The parameters of the launch state. The spec's defaults where R8 gives one; VARIANT, F_CLK, the
prescalers and FREQ_TABLE are OPEN in the spec, and the values here are the model's choice: VARIANT 2,
R = 8 MHz / 8 = 1,000,000 Hz and the illustrative table of spec/95_test_vectors.md (log 3). -/
def resetConfig : Config where
  variant := .two
  fClk := ⟨8000000, 1⟩
  ptPrescale := 8
  pwmPrescale := 1
  freqTable := #v[⟨20, 1⟩, ⟨262, 1⟩, ⟨294, 1⟩, ⟨330, 1⟩, ⟨349, 1⟩, ⟨392, 1⟩, ⟨440, 1⟩, ⟨494, 1⟩]
  sineMap := .dutyRef
  wrapCompare := .ge
  pwmCompare := .lt
  pwmIdleLevel := false
  swSyncStages := 2

/-- The launch state of a CORE built with parameters `c`: every register at R270's value, FAULTS
empty, nothing scheduled. -/
def State.launch (c : Config) : State where
  cfg := c
  phase := 0
  wrap := 0
  ptCfg := false
  ptRun := false
  ptPre := 0
  dutyBuf := 0
  dutyAct := 0
  carrier := 0
  pwmCfg := false
  pwmRun := false
  pwmPre := 0
  rsp := 0
  rspValid := false
  sw := 0
  sync := List.replicate (syncStages c) 0
  faults := []
  cmdIndex := 0
  inputs := []
  draws := 0

/-- The machine right after reset (R270, R271), with the parameters of `resetConfig`. -/
def State.reset : State := State.launch resetConfig

end Sys2Proof.Machine
end

