-- ==== Sys2Proof/Machine/Switches.lean ====
section
/-! DEFINITION. The switch inputs and their synchroniser: sw_s (spec/10_state.md R33), the SwitchEnv
step (spec/43_frequency_selector_mux.md R196) and the shift at a clock edge (R197). -/

namespace Sys2Proof.Machine

/-- `sw_s`: the last SYNC stage, or `sw` itself when there is none (R33). -/
def State.swS (s : State) : Code := s.sync.getLast?.getD s.sw

/-- The SwitchEnv step's effect: sw_s becomes `v` (R196). -/
def State.setSwS (s : State) (v : Code) : State :=
  match s.sync with
  | [] => { s with sw := v }
  | _ :: _ => { s with sync := s.sync.dropLast ++ [v] }

/-- The level on the pins sw[2:0] at a clock edge; VARIANT 1 has no such input (R33, R42). -/
def State.setPins (s : State) (v : Code) : State :=
  match s.cfg.variant with
  | .one => s
  | .two => { s with sw := v }

/-- SYNC[1] <- sw and SYNC[k] <- SYNC[k-1] at a clock edge (R33). -/
def shiftSync (sw : Code) (sync : List Code) : List Code := (sw :: sync).dropLast

end Sys2Proof.Machine
end

