-- ==== Sys2Proof/Machine/Ops.lean ====
section
/-! DEFINITION. The named operations over the registers, the one operation that raises a fault
(spec/60_exceptions.md R243; the CORE has no trap and so no return from one, R240, R246), and reset
(spec/70_reset_and_hazards.md R270). -/

namespace Sys2Proof.Machine

/-- Raise a fault: append the record (kind, command index, command word) to FAULTS and change no other
state; the host goes on with its next command (R243, R246). -/
def raise (k : Fault) (w : CmdWord) (s : State) : Host.Outcome State Fault Refusal :=
  .next { s with faults := s.faults ++ [⟨k, s.cmdIndex, w⟩] }

/-- A read command's answer: RSP <- v, and rsp_valid is 1 (R32). -/
def State.respond (s : State) (v : Word16) : State := { s with rsp := v, rspValid := true }

/-- What every other command leaves: RSP unchanged, rsp_valid 0 (R32, R220; log 8). -/
def State.noResponse (s : State) : State := { s with rspValid := false }

/-- WRAP <- v; a write never changes PHASE (R22, R101, R108). -/
def State.setWrap (s : State) (v : Word16) : State := { s with wrap := v }

/-- DUTY_BUF <- v; DUTY_ACT waits for the carrier cycle boundary (R26, R131). -/
def State.setDutyBuf (s : State) (v : Duty) : State := { s with dutyBuf := v }

/-- PHASE <- draw_16(): a free value (R103; log 2). -/
def State.drawPhase (s : State) : State :=
  { s with phase := Config.freePhase s.draws, draws := s.draws + 1 }

/-- A carrier cycle begins at PWM_START: CARRIER <- 0, DUTY_ACT <- DUTY_BUF, PWM_PRE <- 0 (R132). -/
def State.beginCarrier (s : State) : State :=
  { s with carrier := 0, dutyAct := s.dutyBuf, pwmPre := 0 }

/-- The host's stream moves on to its next command (R223, R242). -/
def State.accept (s : State) : State := { s with cmdIndex := s.cmdIndex + 1 }

/-- Reset: every CORE register takes its reset value; PERIOD_TABLE (the parameters) and FAULTS are
unaffected (R270). Command indices count from 1 after reset (log 9); what is scheduled stays scheduled
and the level on the pins stays. -/
def resetCore (s : State) : State :=
  { State.launch s.cfg with
    sw := s.sw, faults := s.faults, inputs := s.inputs, draws := s.draws }

end Sys2Proof.Machine
end

