-- ==== Sys2Proof/Machine/Flags.lean ====
section
/-! DEFINITION. The CORE has no condition codes and no instruction sets a flag as a side effect
(spec/10_state.md R36). Its only status bits are PT_CFG, PT_RUN, PWM_CFG and PWM_RUN (R23, R24, R29,
R30, R40); these are their writes. -/

namespace Sys2Proof.Machine

/-- PT_CFG <- b (R23). -/
def State.setPtCfg (s : State) (b : Bool) : State := { s with ptCfg := b }

/-- PT_RUN <- b (R24). -/
def State.setPtRun (s : State) (b : Bool) : State := { s with ptRun := b }

/-- PWM_CFG <- b (R29). -/
def State.setPwmCfg (s : State) (b : Bool) : State := { s with pwmCfg := b }

/-- PWM_RUN <- b (R30). -/
def State.setPwmRun (s : State) (b : Bool) : State := { s with pwmRun := b }

/-- PT_PRE <- 0 (R102). -/
def State.clearPtPre (s : State) : State := { s with ptPre := 0 }

end Sys2Proof.Machine
end

