-- ==== Sys2Proof/Machine/Sine.lean ====
section
/-! DEFINITION. SINE_MAP (spec/42_sine_lut_pwm_mapper.md R160 to R163), computed exactly on natural
numbers.

v(p, W) = 127.5 + 127.5 sin(2 pi p / W) needs only n = floor(255 sin(2 pi x)) for a fraction x in
[0, 1/4], and n is the number of i in 1..255 with sin(2 pi x) >= i / 255. Each of these 255 conditions
is x >= t for one real t, and for a fraction x whose denominator is at most 131070 = 2 * 65535 it is
x >= T for one FRACTION T, the smallest such fraction above t. `sineThresholds` lists the 255
fractions T. Laws/Sine.lean proves that `dutyRef` IS floor(v(p, W) + 1/2) over the reals, and that
`sineFloor` and `sineCeil` are floor(v) and ceil(v), for every 16-bit p and W with W >= 1: the table
realises the function without error (R167; log 4). -/

namespace Sys2Proof

/-- thresholds 1 to 32 -/
def sineT0 : List (Nat × Nat) :=
  [(77, 123370), (143, 114557), (137, 73166), (41, 16422), (64, 20507), (466, 124427),
   (92, 21055), (513, 102725), (224, 39869), (433, 69358), (765, 111392), (585, 78079),
   (537, 66155), (391, 44725), (703, 75047), (676, 67649), (669, 63005), (1173, 104324),
   (1471, 123930), (847, 67784), (1657, 126279), (118, 8583), (1581, 109985), (1709, 113922),
   (415, 26554), (881, 54196), (1996, 118223), (1681, 95996), (2191, 120788), (307, 16358),
   (1666, 85893), (2020, 100873)]

/-- thresholds 33 to 64 -/
def sineT1 : List (Nat × Nat) :=
  [(878, 42509), (304, 14283), (861, 39290), (2052, 91021), (293, 12643), (2953, 124045),
   (672, 27499), (3251, 129682), (2728, 106143), (2354, 89391), (2853, 105797), (2551, 92427),
   (2563, 90777), (1714, 59373), (2878, 97549), (1187, 39385), (2421, 78670), (1365, 43457),
   (2215, 69117), (4098, 125381), (3087, 92641), (1841, 54210), (4469, 129164), (548, 15551),
   (2039, 56830), (264, 7229), (4748, 127769), (459, 12142), (3158, 82143), (3140, 80331),
   (1465, 36872), (5195, 128664)]

/-- thresholds 65 to 96 -/
def sineT2 : List (Nat × Nat) :=
  [(885, 21574), (4699, 112774), (2171, 51307), (3175, 73904), (5623, 128941), (5522, 124769),
   (5352, 119179), (664, 14575), (4959, 107318), (4820, 102859), (5157, 108539), (5461, 113378),
   (2643, 54137), (5445, 110054), (1808, 36065), (4518, 88957), (6479, 125937), (125, 2399),
   (5864, 111135), (6877, 128722), (5951, 110027), (4734, 86467), (905, 16332), (6982, 124507),
   (7284, 128369), (7008, 122071), (7407, 127538), (487, 8290), (3609, 60742), (1005, 16726),
   (7497, 123391), (5234, 85201)]

/-- thresholds 97 to 128 -/
def sineT3 : List (Nat × Nat) :=
  [(7822, 125947), (7025, 111897), (7513, 118394), (7919, 123473), (7783, 120081), (4304, 65715),
   (4960, 74951), (3583, 53590), (8497, 125800), (3659, 53628), (1301, 18878), (3884, 55801),
   (779, 11082), (5513, 77664), (1705, 23787), (7881, 108896), (9389, 128498), (4956, 67187),
   (9415, 126439), (7177, 95486), (3451, 45489), (7376, 96333), (2976, 38513), (142, 1821),
   (4961, 63047), (980, 12343), (2973, 37112), (6743, 83430), (961, 11786), (9231, 112225),
   (8890, 107143), (9323, 111394)]

/-- thresholds 129 to 160 -/
def sineT4 : List (Nat × Nat) :=
  [(2377, 28158), (3085, 36234), (10936, 127359), (8845, 102141), (9719, 111295), (7185, 81593),
   (8475, 95446), (8147, 90997), (8248, 91371), (11591, 127359), (8206, 89435), (10972, 118617),
   (7066, 75777), (8461, 90013), (10264, 108327), (8854, 92707), (11225, 116608), (5781, 59584),
   (4839, 49486), (3134, 31801), (7137, 71860), (8477, 84695), (11143, 110478), (9564, 94099),
   (11893, 116124), (6057, 58693), (8047, 77388), (5155, 49203), (10069, 95386), (8563, 80514),
   (13763, 128445), (11819, 109485)]

/-- thresholds 161 to 192 -/
def sineT5 : List (Nat × Nat) :=
  [(7813, 71841), (11172, 101971), (14322, 129763), (5951, 53524), (8996, 80321),
   (13057, 115732), (9817, 86383), (8059, 70401), (15029, 130342), (11381, 97994), (6346, 54249),
   (10430, 88523), (2641, 22255), (11593, 96995), (11312, 93971), (4709, 38841), (7907, 64757),
   (13120, 106691), (12931, 104412), (12513, 100325), (12778, 101729), (2229, 17621),
   (11944, 93759), (11023, 85923), (11557, 89455), (11033, 84802), (13141, 100299),
   (12309, 93293), (11446, 86147), (13399, 100143), (10158, 75391), (7627, 56212)]

/-- thresholds 193 to 224 -/
def sineT6 : List (Nat × Nat) :=
  [(8325, 60929), (6620, 48113), (10511, 75860), (4637, 33233), (13585, 96684), (17063, 120590),
   (16867, 118373), (9423, 65669), (7992, 55307), (16701, 114767), (7550, 51519),
   (15095, 102281), (298, 2005), (15727, 105069), (4736, 31417), (18233, 120096), (10690, 69913),
   (6893, 44760), (8758, 56465), (15628, 100037), (19873, 126297), (7937, 50078), (8013, 50192),
   (11326, 70429), (19046, 117571), (15097, 92511), (14725, 89567), (21030, 126971),
   (1361, 8156), (823, 4895), (15746, 92947), (7109, 41645)]

/-- thresholds 225 to 255 -/
def sineT7 : List (Nat × Nat) :=
  [(11111, 64591), (16029, 92462), (12151, 69547), (14489, 82278), (15385, 86674), (3189, 17822),
   (21291, 118024), (23335, 128296), (10452, 56989), (18005, 97347), (22886, 122683),
   (23284, 123737), (7076, 37273), (5722, 29871), (25118, 129929), (18314, 93851),
   (11479, 58264), (20803, 104558), (25062, 124699), (22835, 112442), (24397, 118847),
   (5257, 25324), (21333, 101572), (23492, 110487), (15830, 73489), (16407, 75113),
   (28251, 127387), (27737, 122968), (1459, 6342), (24971, 105854), (1, 4)]

/-- T for i = 1, ..., 255 in order: the smallest fraction x <= 1/4 with denominator at most 131070 and
sin(2 pi x) >= i / 255. -/
def sineThresholds : List (Nat × Nat) :=
  sineT0 ++ sineT1 ++ sineT2 ++ sineT3 ++ sineT4 ++ sineT5 ++ sineT6 ++ sineT7

/-- floor(255 sin(2 pi a / b)) for 0 <= a / b <= 1/4. -/
def sineLevel (a b : Nat) : Nat := sineThresholds.countP fun t => t.1 * b ≤ a * t.2

/-- |sin(2 pi q / W)| = sin(2 pi a / (2 W)) for this a with 0 <= a / (2 W) <= 1/4, where q < W. -/
def foldPhase (q W : Nat) : Nat :=
  if 4 * q ≤ W then 2 * q
  else if 2 * q ≤ W then W - 2 * q
  else if 4 * q ≤ 3 * W then 2 * q - W
  else 2 * W - 2 * q

/-- sin(2 pi q / W) is negative. -/
def lowerHalf (q W : Nat) : Bool := W < 2 * q

/-- floor(255 |sin(2 pi q / W)|) -/
def sineMagFloor (q W : Nat) : Nat := sineLevel (foldPhase q W) (2 * W)

/-- |sin(2 pi q / W)| = 1 -/
def sineAtPeak (q W : Nat) : Bool := 2 * foldPhase q W == W

/-- ceil(255 |sin(2 pi q / W)|): one above the floor except where the sine is 0 or 1 in magnitude. -/
def sineMagCeil (q W : Nat) : Nat :=
  if foldPhase q W = 0 ∨ sineAtPeak q W then sineMagFloor q W else sineMagFloor q W + 1

/-- floor(v(q, W)), the lower of the two values law L1 admits (R162), for q < W. -/
def sineFloor (q W : Nat) : Nat :=
  if lowerHalf q W then (255 - sineMagCeil q W) / 2 else (255 + sineMagFloor q W) / 2

/-- ceil(v(q, W)), the upper of the two (R162): v is an integer only where the sine is 1 or -1. -/
def sineCeil (q W : Nat) : Nat :=
  if sineAtPeak q W then sineFloor q W else sineFloor q W + 1

/-- duty_ref(q, W) = floor(v(q, W) + 1/2) (R161), for q < W. -/
def dutyRef (q W : Nat) : Nat :=
  if lowerHalf q W then (256 - sineMagCeil q W) / 2 else (256 + sineMagFloor q W) / 2

/-- SINE_MAP of a phase q < W: duty_ref, or the neighbour of v that the configuration names (R162). -/
def sineValue (m : SineMap) (q W : Word16) : Nat :=
  match m with
  | .dutyRef => dutyRef q.toNat W.toNat
  | .conforming roundUp =>
    if roundUp.contains (q, W) then sineCeil q.toNat W.toNat else sineFloor q.toNat W.toNat

/-- SINE_MAP(p, W) for W >= 1 (R162): periodic in p by L2, a function of p and W only by L3, and in
0..255 (R164), so no clamping is needed. -/
def sineMap (m : SineMap) (p W : Word16) : Duty := BitVec.ofNat 8 (sineValue m (p % W) W)

end Sys2Proof
end

