-- ==== Sys2Proof/Machine/Operands.lean ====
section
/-! DEFINITION. What a command's operand stands for: the switch code (spec/30_encoding.md R78), a table
index (R79), and the mapper's value of the phase and wrap registers
(spec/42_sine_lut_pwm_mapper.md R163). The data forms themselves are read in Decode.lean (R71). -/

namespace Sys2Proof.Machine

/-- The switch code, `{sw_s[2], sw_s[1], sw_s[0]}` (R78). -/
def State.switchCode (s : State) : Code := s.swS

/-- PERIOD_TABLE[code] (R79, R191). -/
def State.periodOf (s : State) (code : Code) : Word16 := periodTable s.cfg code

/-- SINE_MAP(PHASE, WRAP), one atomic snapshot (R54, R163). -/
def State.sample (s : State) : Duty := sineMap s.cfg.sineMap s.phase s.wrap

/-- The selector's commands exist only in VARIANT 2 (R74); in VARIANT 1 such a command is the illegal
word `w` (R192 to R195, R221). -/
def State.withSelector (s : State) (w : CmdWord) (t : State) : Host.Outcome State Fault Refusal :=
  match s.cfg.variant with
  | .one => raise .illegalCommand w s
  | .two => .next t

end Sys2Proof.Machine
end

