-- ==== Sys2Proof/Machine/FrequencySelector.lean ====
section
/-! DEFINITION. The frequency_selector_mux's commands (spec/43_frequency_selector_mux.md R192 to R195)
and the SwitchEnv step (R196). -/

namespace Sys2Proof.Machine

/-- SEL_READ (R192). -/
def execSelRead (s : State) : Host.Outcome State Fault Refusal :=
  s.withSelector (encode .selRead) (s.respond (zext16 s.switchCode))

/-- SEL_LOOKUP (R193). -/
def execSelLookup (code : Code) (s : State) : Host.Outcome State Fault Refusal :=
  s.withSelector (encode (.selLookup code)) (s.respond (s.periodOf code))

/-- SEL_APPLY (R194): PHASE, PT_RUN and PT_PRE unchanged. -/
def execSelApply (code : Code) (s : State) : Host.Outcome State Fault Refusal :=
  s.withSelector (encode (.selApply code)) (s.setWrap (s.periodOf code)).noResponse

/-- SEL_APPLY_SW (R195): one sample of the switches goes to both WRAP and RSP. -/
def execSelApplySw (s : State) : Host.Outcome State Fault Refusal :=
  s.withSelector (encode .selApplySw)
    ((s.setWrap (s.periodOf s.switchCode)).respond (zext16 s.switchCode))

/-- The SwitchEnv step (R196); VARIANT 1 has no such agent (R42, R222), and a step that is not enabled
changes nothing (log 7). -/
def switchStep (v : Code) (s : State) : State :=
  match s.cfg.variant with
  | .one => s
  | .two => s.setSwS v

end Sys2Proof.Machine
end

