-- ==== Sys2Proof/Machine/Nop.lean ====
section
/-! DEFINITION. NOP (spec/44_host_sequences.md R220). -/

namespace Sys2Proof.Machine

/-- NOP does nothing; rsp_valid is as after a non-read command (R220). -/
def execNop (s : State) : Host.Outcome State Fault Refusal := .next s.noResponse

end Sys2Proof.Machine
end

