-- ==== Sys2Proof/Machine/PhaseAccumulator.lean ====
section
/-! DEFINITION. The phase_accumulator: its commands (spec/40_phase_accumulator.md R100 to R104), the
TICK step (R105, R106) and its prescaler (R109). -/

namespace Sys2Proof.Machine

/-- PT_CONFIG (R100). -/
def execPtConfig (s : State) : Host.Outcome State Fault Refusal :=
  .next (s.setPtCfg true).noResponse

/-- PT_SET_WRAP (R101): 0 is WrapZero, every other value is written, PHASE unchanged. -/
def execPtSetWrap (ticks : Word16) (s : State) : Host.Outcome State Fault Refusal :=
  if ticks = 0 then raise .wrapZero (encode (.ptSetWrap ticks)) s
  else .next (s.setWrap ticks).noResponse

/-- PT_START (R102): Unconfigured before WrapZero (R244); counting resumes from the current PHASE. -/
def execPtStart (s : State) : Host.Outcome State Fault Refusal :=
  if s.ptCfg = false then raise .unconfigured (encode .ptStart) s
  else if s.wrap = 0 then raise .wrapZero (encode .ptStart) s
  else if s.ptRun = false then .next (s.setPtRun true).clearPtPre.noResponse
  else .next s.noResponse

/-- PT_STOP (R103): a running counter stops and PHASE holds any value; a stopped one is unchanged. -/
def execPtStop (s : State) : Host.Outcome State Fault Refusal :=
  if s.ptRun = true then .next (s.setPtRun false).drawPhase.noResponse
  else .next s.noResponse

/-- PT_READ_PHASE (R104): all 16 bits at one instant. -/
def execPtReadPhase (s : State) : Host.Outcome State Fault Refusal := .next (s.respond s.phase)

/-- The counter's next value at a TICK: R105 for GE, the sum computed exactly, R106 for EQ. -/
def nextPhase (c : WrapCompare) (wrap phase : Word16) : Word16 :=
  match c with
  | .ge => if phase.toNat + 1 ≥ wrap.toNat then 0 else phase + 1
  | .eq => if phase.toNat + 1 = wrap.toNat then 0 else phase + 1

/-- TICK (R105, R106), enabled only while PT_RUN = 1; a step that is not enabled changes nothing
(log 7). -/
def tickStep (s : State) : State :=
  if s.ptRun then { s with phase := nextPhase s.cfg.wrapCompare s.wrap s.phase } else s

/-- A TICK falls at this clock edge: the counter runs and PT_PRE is at its last count (R109). -/
def tickDue (s : State) : Bool := s.ptRun && s.ptPre == s.cfg.ptPrescale - 1

/-- PT_PRE after a clock edge: it counts while PT_RUN = 1 and holds while PT_RUN = 0 (R109). -/
def nextPtPre (s : State) : Nat :=
  if s.ptRun then (if s.ptPre = s.cfg.ptPrescale - 1 then 0 else s.ptPre + 1) else s.ptPre

end Sys2Proof.Machine
end

