-- ==== Sys2Proof/Machine/PwmDuty.lean ====
section
/-! DEFINITION. The pwm_duty_register: its commands (spec/41_pwm_duty_register.md R130 to R133), the
CARRIER step (R134), the pin (R135) and the carrier's prescaler (R136). -/

namespace Sys2Proof.Machine

/-- PWM_CONFIG (R130). -/
def execPwmConfig (s : State) : Host.Outcome State Fault Refusal :=
  .next (s.setPwmCfg true).noResponse

/-- PWM_SET_DUTY (R131): DUTY_BUF only. -/
def execPwmSetDuty (value : Duty) (s : State) : Host.Outcome State Fault Refusal :=
  .next (s.setDutyBuf value).noResponse

/-- PWM_START (R132): a start is a carrier cycle boundary; a running carrier is not restarted. -/
def execPwmStart (s : State) : Host.Outcome State Fault Refusal :=
  if s.pwmCfg = false then raise .unconfigured (encode .pwmStart) s
  else if s.pwmRun = false then .next (s.setPwmRun true).beginCarrier.noResponse
  else .next s.noResponse

/-- PWM_STOP (R133): CARRIER, DUTY_ACT and DUTY_BUF keep their values. -/
def execPwmStop (s : State) : Host.Outcome State Fault Refusal :=
  .next (s.setPwmRun false).noResponse

/-- CARRIER_STEP (R134), enabled only while PWM_RUN = 1; a step that is not enabled changes nothing
(log 7). The step from 255 to 0 is the carrier cycle boundary. -/
def carrierStep (s : State) : State :=
  if s.pwmRun then
    (if s.carrier = 255 then { s with carrier := 0, dutyAct := s.dutyBuf }
     else { s with carrier := s.carrier + 1 })
  else s

/-- A CARRIER_STEP falls at this clock edge (R136). -/
def carrierDue (s : State) : Bool := s.pwmRun && s.pwmPre == s.cfg.pwmPrescale - 1

/-- PWM_PRE after a clock edge (R136). -/
def nextPwmPre (s : State) : Nat :=
  if s.pwmRun then (if s.pwmPre = s.cfg.pwmPrescale - 1 then 0 else s.pwmPre + 1) else s.pwmPre

/-- The pin `pwm_out` (R34, R135). -/
def pwmOut (s : State) : Bool :=
  if s.pwmRun then
    match s.cfg.pwmCompare with
    | .lt => s.carrier.toNat < s.dutyAct.toNat
    | .le => s.carrier.toNat ≤ s.dutyAct.toNat
  else s.cfg.pwmIdleLevel

end Sys2Proof.Machine
end

