-- ==== Sys2Proof/Machine/SineMapper.lean ====
section
/-! DEFINITION. The sine_lut_pwm_mapper's command SYN_STEP (spec/42_sine_lut_pwm_mapper.md R163). -/

namespace Sys2Proof.Machine

/-- SYN_STEP (R163): WrapZero while WRAP was never programmed, else DUTY_BUF <- SINE_MAP(PHASE, WRAP). -/
def execSynStep (s : State) : Host.Outcome State Fault Refusal :=
  if s.wrap = 0 then raise .wrapZero (encode .synStep) s
  else .next (s.setDutyBuf s.sample).noResponse

end Sys2Proof.Machine
end

