-- ==== Sys2Proof/Machine/Dispatch.lean ====
section
/-! DEFINITION. One arm per command (spec/30_encoding.md R73), each a direct call of its meaning. -/

namespace Sys2Proof.Machine

def exec (i : Instr) (s : State) : Host.Outcome State Fault Refusal :=
  match i with
  | .nop => Sys2Proof.Machine.execNop s
  -- phase_accumulator
  | .ptConfig => Sys2Proof.Machine.execPtConfig s
  | .ptSetWrap ticks => Sys2Proof.Machine.execPtSetWrap ticks s
  | .ptStart => Sys2Proof.Machine.execPtStart s
  | .ptStop => Sys2Proof.Machine.execPtStop s
  | .ptReadPhase => Sys2Proof.Machine.execPtReadPhase s
  -- pwm_duty_register
  | .pwmConfig => Sys2Proof.Machine.execPwmConfig s
  | .pwmSetDuty value => Sys2Proof.Machine.execPwmSetDuty value s
  | .pwmStart => Sys2Proof.Machine.execPwmStart s
  | .pwmStop => Sys2Proof.Machine.execPwmStop s
  -- sine_lut_pwm_mapper
  | .synStep => Sys2Proof.Machine.execSynStep s
  -- frequency_selector_mux
  | .selRead => Sys2Proof.Machine.execSelRead s
  | .selLookup code => Sys2Proof.Machine.execSelLookup code s
  | .selApply code => Sys2Proof.Machine.execSelApply code s
  | .selApplySw => Sys2Proof.Machine.execSelApplySw s

end Sys2Proof.Machine
end

