-- ==== Sys2Proof/Machine/HostPort.lean ====
section
/-! DEFINITION. The Host agent's step: one command word of the host's stream
(spec/44_host_sequences.md R223), and the illegal word (R221). -/

namespace Sys2Proof.Machine

/-- The illegal word raises IllegalCommand and changes no register (R221). -/
def performIllegal (w : CmdWord) (s : State) : Host.Outcome State Fault Refusal :=
  raise .illegalCommand w s

/-- HOST_STEP(w, n) of R223: decode, then raise IllegalCommand or perform the command's rule. -/
def hostStep (w : CmdWord) (s : State) : Host.Outcome State Fault Refusal :=
  match decode s.cfg.variant w with
  | .illegal _ => performIllegal w s.accept
  | .cmd i => exec i s.accept

end Sys2Proof.Machine
end

