-- ==== Sys2Proof/Machine/Cycle.lean ====
section
/-! DEFINITION. The hardware agents' steps (spec/44_host_sequences.md R222) and one rising clk edge of
the cycle-level view (spec/70_reset_and_hazards.md R282, R283). -/

namespace Sys2Proof.Machine

/-- A step of PhaseTick, PwmCarrier or SwitchEnv (R222). -/
def hwStep (h : HwStep) (s : State) : State :=
  match h with
  | .tick => tickStep s
  | .carrier => carrierStep s
  | .switches v => switchStep v s

/-- PHASE after a clock edge: a TICK reads PHASE and WRAP from before the edge, and PT_STOP's write
wins over it (R283). `s` is the state before the edge, `c` what the command left. -/
def edgePhase (s c : State) : Word16 :=
  if tickDue s && c.ptRun then (tickStep s).phase else c.phase

/-- CARRIER after a clock edge (R136, R283). -/
def edgeCarrier (s c : State) : BitVec 8 :=
  if carrierDue s then (carrierStep s).carrier else c.carrier

/-- DUTY_ACT after a clock edge: the boundary loads the DUTY_BUF from before the edge (R283). -/
def edgeDutyAct (s c : State) : Duty :=
  if carrierDue s then (carrierStep s).dutyAct else c.dutyAct

/-- PT_PRE after a clock edge: R109's count while PT_RUN = 1 before the edge, else what the command
left (PT_START clears it, R102). -/
def edgePtPre (s c : State) : Nat := if s.ptRun then nextPtPre s else c.ptPre

/-- PWM_PRE after a clock edge (R136, R132). -/
def edgePwmPre (s c : State) : Nat := if s.pwmRun then nextPwmPre s else c.pwmPre

/-- The clocked updates of one edge beside the command's: TICK, CARRIER_STEP, the prescalers and the
synchroniser, all from the state `s` before the edge; `c` is what the command left (R282, R283). -/
def clocked (s c : State) : State :=
  { c with
    phase := edgePhase s c
    carrier := edgeCarrier s c
    dutyAct := edgeDutyAct s c
    ptPre := edgePtPre s c
    pwmPre := edgePwmPre s c
    sync := shiftSync s.sw s.sync }

/-- The command of an edge: none when cmd_valid = 0, which changes only clocked state (R75, R282). -/
def edgeCommand (cmd : Option CmdWord) (s : State) : Host.Outcome State Fault Refusal :=
  match cmd with
  | none => .next s
  | some w => hostStep w s

/-- One rising clk edge (R282, R283). With rst = 1 every register takes its reset value and no command,
TICK or CARRIER step is performed (R270). rsp_valid falls unless the edge accepts a read (R32). -/
def clockEdge (rst : Bool) (cmd : Option CmdWord) (sw : Code) (s : State) :
    Host.Outcome State Fault Refusal :=
  if rst then .next (resetCore (s.setPins sw))
  else
    match edgeCommand cmd (s.setPins sw).noResponse with
    | .next c => .next (clocked (s.setPins sw) c)
    | .fault r => .fault r
    | .refused r => .refused r

/-- What one input does: a Host step, an agent's step, a reset (R222), or a clock edge (R282). -/
def perform (i : Input) (s : State) : Host.Outcome State Fault Refusal :=
  match i with
  | .command w => hostStep w s
  | .hw h => .next (hwStep h s)
  | .reset => .next (resetCore s)
  | .edge rst cmd sw => clockEdge rst cmd sw s

/-- Nothing is scheduled: the host is silent and any hardware agent may take the next step, which one
is a free value (R222, R228; log 6). -/
def freeStep (s : State) : State :=
  { hwStep (Config.freeAgent s.draws) s with draws := s.draws + 1 }

/-- The next scheduled input is taken from the schedule. -/
def State.schedule (s : State) (rest : List Input) : State := { s with inputs := rest }

/-- The machine performs its next scheduled input, or a free agent's step when there is none. -/
def advance (s : State) : Host.Outcome State Fault Refusal :=
  match s.inputs with
  | [] => .next (freeStep s)
  | i :: rest => perform i (s.schedule rest)

end Sys2Proof.Machine
end

