-- ==== Sys2Proof/Machine/Step.lean ====
section
/-! DEFINITION. One step of the model (spec/00_scope.md R13; spec/44_host_sequences.md R222). -/

namespace Sys2Proof.Machine

/-- One step: refused when the configuration is not well formed (R9, R13), else the next input. -/
def step (s : State) : Host.Outcome State Fault Refusal :=
  if s.cfg.wf then advance s else .refused .illFormedConfig

/-- `s` with a command word at the head of its schedule, so that the very next step performs it (R70:
the host presents the word on the command port; log 5). -/
def State.withFetchWord (s : State) (nbits w : Nat) : State :=
  { s with inputs := .command (wordOfTable nbits w) :: s.inputs }

end Sys2Proof.Machine
end

