-- ==== Sys2Proof/Machine/Assembler.lean ====
section
/-! DEFINITION. The assembler syntax of spec/30_encoding.md R80: its lines, as data and as text, the
environment lines, and the pseudo-instructions of R81. A program becomes the inputs of a schedule;
the hardware has no part in this (log 21). -/

namespace Sys2Proof.Machine

/-- The pseudo-instructions (R81). -/
inductive Pseudo where
  | ptSetFreq (f : Freq)
  | powerDown
  | v2Iteration
  deriving DecidableEq, Repr

/-- One line of a program: a command, a pseudo-instruction, or an environment line (R80). -/
inductive Line where
  | instr (i : Instr)
  | pseudo (p : Pseudo)
  | atTick (n : Nat)
  | atCarrier (n : Nat)
  | atSw (v : Code)
  | atReset
  deriving DecidableEq, Repr

/-- The expansion of a pseudo-instruction, `none` when its condition fails (R81). -/
def expandPseudo (c : Config) (p : Pseudo) : Option (List Instr) :=
  match p with
  | .ptSetFreq f =>
    if c.freqWf f then some [.ptSetWrap (BitVec.ofNat 16 (period (tickRate c) f))] else none
  | .powerDown => some [.ptStop, .pwmStop]
  | .v2Iteration =>
    match c.variant with
    | .one => none
    | .two => some [.selApplySw, .synStep]

/-- The inputs one line stands for (R80). -/
def lineInputs (c : Config) (l : Line) : Option (List Input) :=
  match l with
  | .instr i => some [.command (encode i)]
  | .pseudo p => (expandPseudo c p).map (List.map fun i => .command (encode i))
  | .atTick n => some (List.replicate n (.hw .tick))
  | .atCarrier n => some (List.replicate n (.hw .carrier))
  | .atSw v => some [.hw (.switches v)]
  | .atReset => some [.reset]

/-- The inputs of a program, `none` when a line is refused. -/
def assemble (c : Config) : List Line → Option (List Input)
  | [] => some []
  | l :: ls =>
    match lineInputs c l, assemble c ls with
    | some a, some b => some (a ++ b)
    | _, _ => none

/-- A program loaded for a CORE: its inputs are the schedule. -/
def State.loadProgram (s : State) (p : List Line) : Option State :=
  (assemble s.cfg p).map fun l => { s with inputs := l }

/-- Text up to a comment, which starts with `;` (R80). -/
def stripComment : List Char → List Char
  | [] => []
  | c :: cs => if c = ';' then [] else c :: stripComment cs

/-- The words of a line, between blanks and tabs; `acc` is the word being read, reversed. -/
def wordsOf (acc : List Char) : List Char → List (List Char)
  | [] => if acc = [] then [] else [acc.reverse]
  | c :: cs =>
    if c = ' ' ∨ c = '\t' then (if acc = [] then wordsOf [] cs else acc.reverse :: wordsOf [] cs)
    else wordsOf (c :: acc) cs

/-- The value of one digit, `none` when it is no digit of the base. -/
def digitValue (base : Nat) (c : Char) : Option Nat :=
  let n := c.toNat
  let d :=
    if 48 ≤ n ∧ n ≤ 57 then n - 48
    else if 97 ≤ n ∧ n ≤ 102 then n - 87
    else if 65 ≤ n ∧ n ≤ 70 then n - 55
    else 16
  if d < base then some d else none

/-- The value of a run of digits, most significant first. -/
def digitsValue (base acc : Nat) : List Char → Option Nat
  | [] => some acc
  | c :: cs =>
    match digitValue base c with
    | some d => digitsValue base (acc * base + d) cs
    | none => none

/-- A number: decimal, `0x` hexadecimal or `0b` binary (R10, R80). -/
def numberValue (cs : List Char) : Option Nat :=
  match cs with
  | [] => none
  | '0' :: 'x' :: d :: ds => digitsValue 16 0 (d :: ds)
  | '0' :: 'b' :: d :: ds => digitsValue 2 0 (d :: ds)
  | d :: ds => digitsValue 10 0 (d :: ds)

/-- A number that fits an operand's width (R71: a wider value cannot be encoded). -/
def fitting (w : Nat) (n : Option Nat) : Option (BitVec w) :=
  match n with
  | some k => if k < 2 ^ w then some (BitVec.ofNat w k) else none
  | none => none

/-- An operand `#n` (R80). -/
def operandValue (cs : List Char) : Option Nat :=
  match cs with
  | '#' :: ds => numberValue ds
  | _ => none

/-- The lines of one word: the commands of form Z, two pseudo-instructions and @RESET. -/
def bareLines : List (List Char × Line) :=
  [(['N', 'O', 'P'], .instr .nop),
   (['P', 'T', '_', 'C', 'O', 'N', 'F', 'I', 'G'], .instr .ptConfig),
   (['P', 'T', '_', 'S', 'T', 'A', 'R', 'T'], .instr .ptStart),
   (['P', 'T', '_', 'S', 'T', 'O', 'P'], .instr .ptStop),
   (['P', 'T', '_', 'R', 'E', 'A', 'D', '_', 'P', 'H', 'A', 'S', 'E'], .instr .ptReadPhase),
   (['P', 'W', 'M', '_', 'C', 'O', 'N', 'F', 'I', 'G'], .instr .pwmConfig),
   (['P', 'W', 'M', '_', 'S', 'T', 'A', 'R', 'T'], .instr .pwmStart),
   (['P', 'W', 'M', '_', 'S', 'T', 'O', 'P'], .instr .pwmStop),
   (['S', 'Y', 'N', '_', 'S', 'T', 'E', 'P'], .instr .synStep),
   (['S', 'E', 'L', '_', 'R', 'E', 'A', 'D'], .instr .selRead),
   (['S', 'E', 'L', '_', 'A', 'P', 'P', 'L', 'Y', '_', 'S', 'W'], .instr .selApplySw),
   (['P', 'O', 'W', 'E', 'R', '_', 'D', 'O', 'W', 'N'], .pseudo .powerDown),
   (['V', '2', '_', 'I', 'T', 'E', 'R', 'A', 'T', 'I', 'O', 'N'], .pseudo .v2Iteration),
   (['@', 'R', 'E', 'S', 'E', 'T'], .atReset)]

/-- The entry of a word in a list of names. -/
def lookupWord {α : Type} (w : List Char) : List (List Char × α) → Option α
  | [] => none
  | (k, a) :: rest => if k = w then some a else lookupWord w rest

/-- The lines of a word and a number, by the word: the forms D16, D8 and C3, PT_SET_FREQ, and the
environment lines (R80, R81). The flag says that the number stands behind `#`. -/
def operandLines : List (List Char × (Bool × (Nat → Option Line))) :=
  [(['P', 'T', '_', 'S', 'E', 'T', '_', 'W', 'R', 'A', 'P'],
      (true, fun n => (fitting 16 (some n)).map fun v => .instr (.ptSetWrap v))),
   (['P', 'W', 'M', '_', 'S', 'E', 'T', '_', 'D', 'U', 'T', 'Y'],
      (true, fun n => (fitting 8 (some n)).map fun v => .instr (.pwmSetDuty v))),
   (['S', 'E', 'L', '_', 'L', 'O', 'O', 'K', 'U', 'P'],
      (true, fun n => (fitting 3 (some n)).map fun v => .instr (.selLookup v))),
   (['S', 'E', 'L', '_', 'A', 'P', 'P', 'L', 'Y'],
      (true, fun n => (fitting 3 (some n)).map fun v => .instr (.selApply v))),
   (['P', 'T', '_', 'S', 'E', 'T', '_', 'F', 'R', 'E', 'Q'],
      (true, fun n => some (.pseudo (.ptSetFreq ⟨n, 1⟩)))),
   (['@', 'T', 'I', 'C', 'K'], (false, fun n => some (.atTick n))),
   (['@', 'C', 'A', 'R', 'R', 'I', 'E', 'R'], (false, fun n => some (.atCarrier n))),
   (['@', 'S', 'W'], (false, fun n => (fitting 3 (some n)).map fun v => .atSw v))]

/-- A line of two words. -/
def operandLine (w arg : List Char) : Option Line :=
  match lookupWord w operandLines with
  | some (true, mk) => (operandValue arg).bind mk
  | some (false, mk) => (numberValue arg).bind mk
  | none => none

/-- One line of text: nothing, one line of a program, or an error (`none`) (R80). -/
def parseLine (cs : List Char) : Option (List Line) :=
  match wordsOf [] (stripComment cs) with
  | [] => some []
  | [w] => (lookupWord w bareLines).map fun l => [l]
  | [w, arg] => (operandLine w arg).map fun l => [l]
  | _ => none

/-- A program's text, one line after the other. -/
def parseProgram : List (List Char) → Option (List Line)
  | [] => some []
  | l :: ls =>
    match parseLine l, parseProgram ls with
    | some a, some b => some (a ++ b)
    | _, _ => none

end Sys2Proof.Machine
end

