-- ==== Sys2Proof/Safety.lean ====
section
/-! DEFINITION. The terms claims use: the ideal sine value (spec/42_sine_lut_pwm_mapper.md R160), the
machine's invariant, good runs and the end of a run (spec/44_host_sequences.md R228), the host's duties
(R229), schedules and fairness (R222, R230), and the event-level view of a state that the cycle-level
view refines (spec/70_reset_and_hazards.md R283). Nothing here is run by `step`. -/

namespace Sys2Proof

/-- v(p, W) = 127.5 + 127.5 sin(2 pi p / W), over the reals (R160). -/
noncomputable def idealDuty (p W : Nat) : ℝ :=
  127.5 + 127.5 * Real.sin (2 * Real.pi * p / W)

/-- The frequency `num / den` as a rational number (D35). -/
def Freq.toRat (f : Freq) : ℚ := f.num / f.den

/-- The word decodes to a command in the variant (R75, R77). -/
def isLegal (v : Variant) (w : CmdWord) : Bool :=
  match decode v w with
  | .cmd _ => true
  | .illegal _ => false

end Sys2Proof

namespace Sys2Proof.Machine

/-- The invariant of the machine: the configuration is well formed (R9); a running counter has been
configured and has a period (R102, R105); a running carrier has been configured (R132); the prescaler
counters are in their ranges (R25, R31); the synchroniser has its stages (R33, R42). -/
abbrev CoreInv (s : State) : Prop :=
  s.cfg.wf = true
    ∧ (s.ptRun = true → s.ptCfg = true ∧ s.wrap ≠ 0)
    ∧ (s.pwmRun = true → s.pwmCfg = true)
    ∧ s.ptPre < s.cfg.ptPrescale
    ∧ s.pwmPre < s.cfg.pwmPrescale
    ∧ s.sync.length = syncStages s.cfg

/-- No fault has been recorded: the only states a claim about the hardware may speak of (R243, R245). -/
abbrev FaultFree (s : State) : Prop := s.faults = []

/-- The input performs a command of the host. -/
def isCommand (i : Input) : Bool :=
  match i with
  | .command _ => true
  | .hw _ => false
  | .reset => false
  | .edge rst cmd _ => !rst && cmd.isSome

/-- No command of the host is left to perform. -/
abbrev NoCommandLeft (l : List Input) : Prop := l.all (fun i => !isCommand i) = true

/-- `n` steps of the machine, one after the other. -/
def steps : Nat → State → Host.Outcome State Fault Refusal
  | 0, s => .next s
  | n + 1, s =>
    match step s with
    | .next t => steps n t
    | .fault r => .fault r
    | .refused r => .refused r

/-- How many steps a run takes: the inputs up to and including its last command; 0 when it has none. -/
def runLength : List Input → Nat
  | [] => 0
  | i :: rest =>
    if runLength rest = 0 ∧ isCommand i = false then 0 else runLength rest + 1

/-- The observed result of a run from `s`: the state right after the host's last command, and not the
state after the agents' steps that are scheduled or that step freely later (R228; log 25). -/
def observedResult (s : State) : Host.Outcome State Fault Refusal := steps (runLength s.inputs) s

/-- The run from `s` is over at `t`: its last command has just been performed (R228). -/
abbrev EndOfRun (s t : State) : Prop := observedResult s = .next t

/-- A good end of the run from `s`: its observed result is `t`, and no fault is recorded (R228). -/
abbrev GoodEnd (s t : State) : Prop := EndOfRun s t ∧ FaultFree t

/-- The fault a command word raises, in R244's priority; `none` when the host keeps its duties (R229). -/
def faultOf (s : State) (w : CmdWord) : Option Fault :=
  match decode s.cfg.variant w with
  | .illegal _ => some .illegalCommand
  | .cmd (.ptSetWrap ticks) => if ticks = 0 then some .wrapZero else none
  | .cmd .ptStart =>
    if s.ptCfg = false then some .unconfigured else if s.wrap = 0 then some .wrapZero else none
  | .cmd .pwmStart => if s.pwmCfg = false then some .unconfigured else none
  | .cmd .synStep => if s.wrap = 0 then some .wrapZero else none
  | .cmd _ => none

/-- The boot requirements met: both timers configured and a period programmed (R273, points 2, 3). -/
abbrev BootReady (s : State) : Prop := s.ptCfg = true ∧ s.pwmCfg = true ∧ s.wrap ≠ 0

/-- Inputs performed one after the other. -/
def performAll : List Input → State → Host.Outcome State Fault Refusal
  | [], s => .next s
  | i :: rest, s =>
    match perform i s with
    | .next t => performAll rest t
    | .fault r => .fault r
    | .refused r => .refused r

/-- An infinite run of the machine along a schedule (R222). -/
def IsRun (schedule : Nat → Input) (run : Nat → State) : Prop :=
  ∀ n, perform (schedule n) (run n) = .next (run (n + 1))

/-- The input performs a TICK: the PhaseTick agent's step, or a clock edge at which a TICK falls. -/
def performsTick (i : Input) (s : State) : Bool :=
  match i with
  | .hw .tick => s.ptRun
  | .hw .carrier => false
  | .hw (.switches _) => false
  | .command _ => false
  | .reset => false
  | .edge rst _ _ => !rst && tickDue s

/-- The input performs a CARRIER_STEP. -/
def performsCarrier (i : Input) (s : State) : Bool :=
  match i with
  | .hw .tick => false
  | .hw .carrier => s.pwmRun
  | .hw (.switches _) => false
  | .command _ => false
  | .reset => false
  | .edge rst _ _ => !rst && carrierDue s

/-- Fairness of PhaseTick: enabled from some point on, it is taken again and again (R230). -/
def FairTicks (schedule : Nat → Input) (run : Nat → State) : Prop :=
  ∀ n, (∀ m, n ≤ m → (run m).ptRun = true) → ∃ m, n ≤ m ∧ performsTick (schedule m) (run m) = true

/-- Fairness of PwmCarrier (R230). -/
def FairCarrier (schedule : Nat → Input) (run : Nat → State) : Prop :=
  ∀ n, (∀ m, n ≤ m → (run m).pwmRun = true) →
    ∃ m, n ≤ m ∧ performsCarrier (schedule m) (run m) = true

/-- A step of the event-level model: no clock edge and no reset (R222). -/
def isEvent (i : Input) : Bool :=
  match i with
  | .command _ => true
  | .hw _ => true
  | .reset => false
  | .edge _ _ _ => false

/-- The command words of a schedule, in order. -/
def commandsOf (l : List Input) : List CmdWord :=
  l.filterMap fun i => match i with
    | .command w => some w
    | .hw _ => none
    | .reset => none
    | .edge _ _ _ => none

/-- Two states agree on everything the event-level model holds: all registers but the prescaler
counters, rsp_valid and the inner synchroniser stages (R25, R31, R32, R222). -/
abbrev SameEvents (s t : State) : Prop :=
  s.cfg = t.cfg ∧ s.phase = t.phase ∧ s.wrap = t.wrap ∧ s.ptCfg = t.ptCfg ∧ s.ptRun = t.ptRun
    ∧ s.dutyBuf = t.dutyBuf ∧ s.dutyAct = t.dutyAct ∧ s.carrier = t.carrier
    ∧ s.pwmCfg = t.pwmCfg ∧ s.pwmRun = t.pwmRun ∧ s.rsp = t.rsp ∧ s.swS = t.swS
    ∧ s.faults = t.faults ∧ s.cmdIndex = t.cmdIndex

/-- TICK performed k times (R105, R106). -/
def ticks : Nat → State → State
  | 0, s => s
  | k + 1, s => ticks k (tickStep s)

/-- CARRIER_STEP performed k times (R134). -/
def carrierSteps : Nat → State → State
  | 0, s => s
  | k + 1, s => carrierSteps k (carrierStep s)

/-- Clock edges with rst = 0, each with the command it carries, if any, and its switch level. -/
def runEdges (l : List (Option CmdWord × Code)) : List Input := l.map fun e => .edge false e.1 e.2

/-- The clock edges with rst = 0, no command and the given switch levels, one after the other. -/
def idleEdges (levels : List Code) : List Input := levels.map fun v => .edge false none v

end Sys2Proof.Machine
end

