-- ==== Sys2Proof/Certificates/Slice0/Obligations.lean ====
section
/-! DEFINITION. The statements for the provers. A command's frame is the record update that its
conclusion names: every field that the update does not name is unchanged. `rspValid := b` leaves
rsp_valid to the statement about R32, for the commands whose own rules do not name it. A clause about a
faulting command says what the model records (R243), never what a built CORE does (R245; log 1). The
CORE has no memory (R50), so no statement speaks of one. -/

open Sys2Proof Sys2Proof.Machine

/-! ## Encoding -/

/-- Words written out from R70's fields and R73's opcodes decode to the commands they stand for. -/
def Obligations.WordsOfTheOpcodeMapDecode : Prop :=
  decode .one 0b000000000000000000000000#24 = .cmd .nop
  ∧ decode .one 0b001000000000011010000011#24 = .cmd (.ptSetWrap 1667)
  ∧ decode .one 0b011100000000000011001000#24 = .cmd (.pwmSetDuty 200)
  ∧ decode .two 0b101000000000000000000000#24 = .cmd .synStep
  ∧ decode .two 0b110000000000000000000111#24 = .cmd (.selLookup 7)
  ∧ decode .two 0b110100000000000000000011#24 = .cmd (.selApply 3)
  ∧ decode .one 0b101100000000000000000000#24 = .illegal .variantGated
  ∧ decode .two 0b111100000000000000000000#24 = .illegal .reservedOpcode

/-- R70 to R74: a command of a variant decodes from its own word, with every operand at every value. -/
def Obligations.DecodeOfEncodeIsTheCommand : Prop :=
  ∀ (v : Variant) (i : Instr), i.wf v = true → decode v (encode i) = .cmd i

/-- R71, R73, R77: a word that decodes is the one word of its command, and the variant has the command. -/
def Obligations.LegalWordIsTheCommandsOwn : Prop :=
  ∀ (v : Variant) (w : CmdWord) (i : Instr), decode v w = .cmd i → encode i = w ∧ i.wf v = true

/-- R77's counts: 65801 words decode to a command in VARIANT 1 and 65819 in VARIANT 2. -/
def Obligations.LegalWordsCounted : Prop :=
  (Finset.univ.filter fun w : CmdWord => isLegal .one w = true).card = 65801
  ∧ (Finset.univ.filter fun w : CmdWord => isLegal .two w = true).card = 65819

/-- R221: which words are illegal, bit by bit, and what performing one does. That the record's number is
`cmdIndex + 1` and that the command is counted is the model's numbering (R223, R242; log 9). -/
def Obligations.IllegalWordsRaiseIllegalCommand : Prop :=
  ∀ (s : State) (w : CmdWord),
    ((∃ r, decode s.cfg.variant w = .illegal r) ↔
      (w.extractLsb' 20 4 = 0xF
        ∨ w.extractLsb' 16 4 ≠ 0
        ∨ (w.extractLsb' 20 4 = 0x7 ∧ w.extractLsb' 8 8 ≠ 0)
        ∨ ((w.extractLsb' 20 4 = 0xC ∨ w.extractLsb' 20 4 = 0xD) ∧ w.extractLsb' 3 13 ≠ 0)
        ∨ (w.extractLsb' 20 4 ≠ 0x2 ∧ w.extractLsb' 20 4 ≠ 0x7 ∧ w.extractLsb' 20 4 ≠ 0xC
            ∧ w.extractLsb' 20 4 ≠ 0xD ∧ w.extractLsb' 0 16 ≠ 0)
        ∨ (s.cfg.variant = .one ∧ 0xB ≤ (w.extractLsb' 20 4).toNat
            ∧ (w.extractLsb' 20 4).toNat ≤ 0xE)))
    ∧ ((∃ r, decode s.cfg.variant w = .illegal r) →
        hostStep w s = .next { s with
          cmdIndex := s.cmdIndex + 1
          faults := s.faults ++ [⟨.illegalCommand, s.cmdIndex + 1, w⟩] })

/-- R81: what the three pseudo-instructions expand to, and when the assembler refuses them. -/
def Obligations.PseudoInstructionsExpand : Prop :=
  (∀ (c : Config) (f : Freq), 0 < f.num → 0 < f.den →
    (1 ≤ period (tickRate c) f ∧ period (tickRate c) f ≤ 65535 →
      lineInputs c (.pseudo (.ptSetFreq f))
        = some [.command (BitVec.ofNat 24 (0x200000 + period (tickRate c) f))])
    ∧ (¬ (1 ≤ period (tickRate c) f ∧ period (tickRate c) f ≤ 65535) →
      lineInputs c (.pseudo (.ptSetFreq f)) = none))
  ∧ (∀ c : Config, lineInputs c (.pseudo .powerDown)
      = some [.command 0x400000#24, .command 0x900000#24])
  ∧ (∀ c : Config, c.variant = .two → lineInputs c (.pseudo .v2Iteration)
      = some [.command 0xE00000#24, .command 0xA00000#24])
  ∧ (∀ c : Config, c.variant = .one → lineInputs c (.pseudo .v2Iteration) = none)

/-! ## One step -/

/-- R223: a step whose next input is a command word is the meaning of the command it decodes to, after
the schedule and the command index have moved on. -/
def Obligations.StepRunsTheDecodedCommand : Prop :=
  ∀ (s : State) (w : CmdWord) (rest : List Input) (i : Instr),
    s.cfg.wf = true → s.inputs = .command w :: rest → decode s.cfg.variant w = .cmd i →
    step s = exec i { s with inputs := rest, cmdIndex := s.cmdIndex + 1 }

/-- R9: when a configuration is well formed, and that the model refuses any other. -/
def Obligations.IllFormedConfigurationRefused : Prop :=
  ∀ s : State,
    (s.cfg.wf = true ↔
      (0 < s.cfg.fClk.num ∧ 0 < s.cfg.fClk.den ∧ 1 ≤ s.cfg.ptPrescale ∧ 1 ≤ s.cfg.pwmPrescale)
      ∧ (s.cfg.variant = .two → ∀ code : Code,
          0 < (tableFreq s.cfg code).num ∧ 0 < (tableFreq s.cfg code).den
          ∧ 1 ≤ period (tickRate s.cfg) (tableFreq s.cfg code)
          ∧ period (tickRate s.cfg) (tableFreq s.cfg code) ≤ 65535)
      ∧ (s.cfg.variant = .one →
          1 ≤ period (tickRate s.cfg) freqV1 ∧ period (tickRate s.cfg) freqV1 ≤ 65535))
    ∧ (s.cfg.wf = false → step s = .refused .illFormedConfig)

/-- R13, R57, R240: in a well-formed configuration every input is performed, none stops the machine. The
schedule is the model's own field (log 5), and that a step is taken with nothing scheduled is the model's
choice (log 6). -/
def Obligations.EveryScheduledInputIsPerformed : Prop :=
  ∀ s : State, s.cfg.wf = true → ∃ t, step s = .next t
    ∧ ∀ (i : Input) (rest : List Input), s.inputs = i :: rest →
        perform i { s with inputs := rest } = .next t ∧ t.inputs = rest

/-- R222 and the model's choice of log 6: with nothing scheduled some hardware agent steps; which one
is a free value, and no command is performed. -/
def Obligations.UnscheduledStepIsSomeAgents : Prop :=
  ∀ s : State, s.cfg.wf = true → s.inputs = [] →
    ∃ h : HwStep, step s = .next { hwStep h s with draws := s.draws + 1 }

/-! ## phase_accumulator -/

/-- R100. -/
def Obligations.PtConfigSetsItsFlag : Prop :=
  (∀ v, decode v 0x100000#24 = .cmd .ptConfig)
  ∧ ∀ s : State, ∃ b, exec .ptConfig s = .next { s with ptCfg := true, rspValid := b }

/-- R101. -/
def Obligations.PtSetWrapWritesWrap : Prop :=
  (∀ (v : Variant) (ticks : Word16),
      decode v (BitVec.ofNat 24 (0x200000 + ticks.toNat)) = .cmd (.ptSetWrap ticks))
  ∧ (∀ (s : State) (ticks : Word16), ticks ≠ 0 →
      ∃ b, exec (.ptSetWrap ticks) s = .next { s with wrap := ticks, rspValid := b })
  ∧ (∀ s : State, exec (.ptSetWrap 0) s = .next { s with
      faults := s.faults ++ [⟨.wrapZero, s.cmdIndex, 0x200000#24⟩] })

/-- R102, with R244's priority between its two faults. -/
def Obligations.PtStartEnablesCounting : Prop :=
  (∀ v, decode v 0x300000#24 = .cmd .ptStart)
  ∧ (∀ s : State, s.ptCfg = false → exec .ptStart s = .next { s with
      faults := s.faults ++ [⟨.unconfigured, s.cmdIndex, 0x300000#24⟩] })
  ∧ (∀ s : State, s.ptCfg = true → s.wrap = 0 → exec .ptStart s = .next { s with
      faults := s.faults ++ [⟨.wrapZero, s.cmdIndex, 0x300000#24⟩] })
  ∧ (∀ s : State, s.ptCfg = true → s.wrap ≠ 0 → s.ptRun = false →
      ∃ b, exec .ptStart s = .next { s with ptRun := true, ptPre := 0, rspValid := b })
  ∧ (∀ s : State, s.ptCfg = true → s.wrap ≠ 0 → s.ptRun = true →
      ∃ b, exec .ptStart s = .next { s with rspValid := b })

/-- R103: after PT_STOP of a running counter PHASE is some value `x` that nothing constrains, and it
stays while the counter is stopped. `draws` is the model's own count of free values (log 2), of which
nothing is claimed. -/
def Obligations.PtStopLeavesPhaseOpen : Prop :=
  (∀ v, decode v 0x400000#24 = .cmd .ptStop)
  ∧ (∀ s : State, s.ptRun = true → ∃ x k b, exec .ptStop s = .next { s with
      ptRun := false, phase := x, draws := k, rspValid := b })
  ∧ (∀ s : State, s.ptRun = false → ∃ b, exec .ptStop s = .next { s with rspValid := b })
  ∧ (∀ s : State, s.ptRun = false → tickStep s = s)

/-- R104. -/
def Obligations.PtReadPhaseReturnsPhase : Prop :=
  (∀ v, decode v 0x500000#24 = .cmd .ptReadPhase)
  ∧ ∀ s : State, exec .ptReadPhase s = .next { s with rsp := s.phase, rspValid := true }

/-- R105: TICK under GE, the sum PHASE + 1 exact. -/
def Obligations.TickCountsUpToWrap : Prop :=
  ∀ s : State, s.cfg.wrapCompare = .ge → s.ptRun = true →
    (s.wrap.toNat ≤ s.phase.toNat + 1 → tickStep s = { s with phase := 0 })
    ∧ (s.phase.toNat + 1 < s.wrap.toNat →
        tickStep s = { s with phase := BitVec.ofNat 16 (s.phase.toNat + 1) })

/-- R106: TICK under EQ; EQ and GE agree below WRAP; above it EQ takes 65536 - PHASE ticks to reach 0
and GE one. -/
def Obligations.EqualityCompareCountsThroughTheTop : Prop :=
  (∀ s : State, s.cfg.wrapCompare = .eq → s.ptRun = true → s.wrap ≠ 0 →
    tickStep s = { s with phase :=
      (if s.phase.toNat = s.wrap.toNat - 1 then 0
       else BitVec.ofNat 16 ((s.phase.toNat + 1) % 65536)) })
  ∧ (∀ W p : Word16, p.toNat < W.toNat → nextPhase .eq W p = nextPhase .ge W p)
  ∧ (∀ s : State, s.cfg.wrapCompare = .eq → s.ptRun = true → s.wrap ≠ 0 →
      s.wrap.toNat ≤ s.phase.toNat →
      (∀ k, k < 65536 - s.phase.toNat → (ticks k s).phase.toNat = s.phase.toNat + k)
      ∧ (ticks (65536 - s.phase.toNat) s).phase = 0)
  ∧ (∀ s : State, s.cfg.wrapCompare = .ge → s.ptRun = true →
      s.wrap.toNat ≤ s.phase.toNat → (ticks 1 s).phase = 0)

/-- R107: while WRAP stays W and PHASE < W, the counter repeats with a period of exactly W ticks. -/
def Obligations.CounterRepeatsEveryWrapTicks : Prop :=
  ∀ s : State, s.ptRun = true → s.phase.toNat < s.wrap.toNat →
    ∀ k, (ticks k s).phase.toNat = (s.phase.toNat + k) % s.wrap.toNat

/-- R108: a WRAP write while running, by any of the three commands that write WRAP, does not reset PHASE;
and how the cycle in progress ends. -/
def Obligations.WrapWriteLeavesTheCycleRunning : Prop :=
  ∀ (i : Instr) (s : State) (w : Word16), s.cfg.wrapCompare = .ge → s.ptRun = true → w ≠ 0 →
    (i = .ptSetWrap w
      ∨ (s.cfg.variant = .two ∧ ∃ code, i = .selApply code ∧ w = periodTable s.cfg code)
      ∨ (s.cfg.variant = .two ∧ i = .selApplySw ∧ w = periodTable s.cfg s.swS)) →
    ∃ t, exec i s = .next t ∧ t.wrap = w ∧ t.phase = s.phase ∧ t.ptRun = true
      ∧ (s.phase.toNat < w.toNat →
          ∀ k, (ticks k t).phase.toNat = (s.phase.toNat + k) % w.toNat)
      ∧ (w.toNat ≤ s.phase.toNat → ∀ k, (ticks (k + 1) t).phase.toNat = k % w.toNat)

/-- R21: PHASE < WRAP holds after every TICK under GE, and lasts as long as WRAP is not written. -/
def Obligations.PhaseStaysBelowWrap : Prop :=
  (∀ s : State, s.cfg.wrapCompare = .ge → s.ptRun = true → s.wrap ≠ 0 →
    (tickStep s).phase.toNat < (tickStep s).wrap.toNat)
  ∧ (∀ (i : Input) (s t : State), perform i s = .next t → s.phase.toNat < s.wrap.toNat →
      t.wrap = s.wrap → t.ptRun = true → t.phase.toNat < t.wrap.toNat)

/-! ## pwm_duty_register -/

/-- R130. -/
def Obligations.PwmConfigSetsItsFlag : Prop :=
  (∀ v, decode v 0x600000#24 = .cmd .pwmConfig)
  ∧ ∀ s : State, ∃ b, exec .pwmConfig s = .next { s with pwmCfg := true, rspValid := b }

/-- R131. -/
def Obligations.PwmSetDutyWritesTheBuffer : Prop :=
  (∀ (v : Variant) (value : Duty),
      decode v (BitVec.ofNat 24 (0x700000 + value.toNat)) = .cmd (.pwmSetDuty value))
  ∧ ∀ (s : State) (value : Duty),
      ∃ b, exec (.pwmSetDuty value) s = .next { s with dutyBuf := value, rspValid := b }

/-- R132. -/
def Obligations.PwmStartBeginsACarrierCycle : Prop :=
  (∀ v, decode v 0x800000#24 = .cmd .pwmStart)
  ∧ (∀ s : State, s.pwmCfg = false → exec .pwmStart s = .next { s with
      faults := s.faults ++ [⟨.unconfigured, s.cmdIndex, 0x800000#24⟩] })
  ∧ (∀ s : State, s.pwmCfg = true → s.pwmRun = false →
      ∃ b, exec .pwmStart s = .next { s with
        pwmRun := true, carrier := 0, dutyAct := s.dutyBuf, pwmPre := 0, rspValid := b })
  ∧ (∀ s : State, s.pwmCfg = true → s.pwmRun = true →
      ∃ b, exec .pwmStart s = .next { s with rspValid := b })

/-- R133, with the pin at its idle level afterwards (R135). R134 says only when a CARRIER step is enabled;
that a step which is not enabled changes nothing is the model's choice (log 7). -/
def Obligations.PwmStopGatesTheCarrier : Prop :=
  (∀ v, decode v 0x900000#24 = .cmd .pwmStop)
  ∧ (∀ s : State, ∃ b, exec .pwmStop s = .next { s with pwmRun := false, rspValid := b })
  ∧ (∀ s : State, s.pwmRun = false → pwmOut s = s.cfg.pwmIdleLevel ∧ carrierStep s = s)

/-- R134. -/
def Obligations.CarrierCountsAndLoadsAtTheBoundary : Prop :=
  ∀ s : State, s.pwmRun = true →
    (s.carrier = 255 → carrierStep s = { s with carrier := 0, dutyAct := s.dutyBuf })
    ∧ (s.carrier ≠ 255 →
        carrierStep s = { s with carrier := BitVec.ofNat 8 (s.carrier.toNat + 1) })

/-- R135: the pin, and that inside a cycle it falls at most once and never rises. -/
def Obligations.PinComparesCarrierWithDuty : Prop :=
  ∀ s : State,
    (s.pwmRun = false → pwmOut s = s.cfg.pwmIdleLevel)
    ∧ (s.pwmRun = true → s.cfg.pwmCompare = .lt →
        (pwmOut s = true ↔ s.carrier.toNat < s.dutyAct.toNat))
    ∧ (s.pwmRun = true → s.cfg.pwmCompare = .le →
        (pwmOut s = true ↔ s.carrier.toNat ≤ s.dutyAct.toNat))
    ∧ (s.pwmRun = true → ∀ c c' : BitVec 8, c.toNat ≤ c'.toNat →
        pwmOut { s with carrier := c' } = true → pwmOut { s with carrier := c } = true)

/-- R138: over one carrier cycle the pin is high for DUTY_ACT steps under LT and DUTY_ACT + 1 under LE. -/
def Obligations.PinIsHighForDutySteps : Prop :=
  ∀ s : State, s.pwmRun = true →
    (List.range 256).countP (fun c => pwmOut { s with carrier := BitVec.ofNat 8 c })
      = s.dutyAct.toNat + (if s.cfg.pwmCompare = .le then 1 else 0)

/-- R137: a buffered value reaches DUTY_ACT after exactly 256 - CARRIER carrier steps, and before that
DUTY_ACT keeps its value. -/
def Obligations.BufferedDutyWaitsForTheBoundary : Prop :=
  ∀ s : State, s.pwmRun = true →
    (∀ k, k < 256 - s.carrier.toNat →
        (carrierSteps k s).dutyAct = s.dutyAct
        ∧ (carrierSteps k s).carrier.toNat = s.carrier.toNat + k)
    ∧ (carrierSteps (256 - s.carrier.toNat) s).dutyAct = s.dutyBuf
    ∧ (carrierSteps (256 - s.carrier.toNat) s).carrier = 0

/-- R27, R137: no input but a reset, a carrier boundary or a PWM_START of a stopped carrier changes
DUTY_ACT, and the last two load DUTY_BUF. -/
def Obligations.DutyActChangesOnlyAtABoundary : Prop :=
  ∀ (i : Input) (s t : State), perform i s = .next t → t.dutyAct ≠ s.dutyAct →
    (i = .reset ∧ t = resetCore s ∨ ∃ cmd sw, i = .edge true cmd sw ∧ t = resetCore (s.setPins sw))
    ∨ (t.dutyAct = s.dutyBuf ∧ t.carrier = 0
        ∧ ((performsCarrier i s = true ∧ s.carrier = 255) ∨ (s.pwmRun = false ∧ t.pwmRun = true)))

/-! ## sine_lut_pwm_mapper -/

/-- R160, R161: the default SINE_MAP is floor(v + 1/2), over the reals, for every phase and period. -/
def Obligations.DutyRefIsTheRoundedSine : Prop :=
  ∀ p W : Word16, W ≠ 0 →
    ((sineMap .dutyRef p W).toNat : ℤ) = ⌊idealDuty p.toNat W.toNat + 1 / 2⌋

/-- R162, R8: laws L1 and L2 of every SINE_MAP of the model (L3 is the type of `sineMap`), and conversely
every function that keeps the laws is a SINE_MAP that a configuration can name. -/
def Obligations.SineMapKeepsItsLaws : Prop :=
  (∀ (m : SineMap) (p W : Word16), W ≠ 0 →
    (((sineMap m p W).toNat : ℤ) = ⌊idealDuty p.toNat W.toNat⌋
      ∨ ((sineMap m p W).toNat : ℤ) = ⌈idealDuty p.toNat W.toNat⌉)
    ∧ sineMap m p W = sineMap m (p % W) W)
  ∧ (∀ f : Word16 → Word16 → Duty,
      (∀ p W : Word16, W ≠ 0 →
        (((f p W).toNat : ℤ) = ⌊idealDuty p.toNat W.toNat⌋
          ∨ ((f p W).toNat : ℤ) = ⌈idealDuty p.toNat W.toNat⌉)
        ∧ f p W = f (p % W) W) →
      ∃ roundUp, ∀ p W : Word16, W ≠ 0 → sineMap (.conforming roundUp) p W = f p W)

/-- R164: v lies in [0, 255], so no value is ever cut to fit 8 bits. -/
def Obligations.SineValueFitsEightBits : Prop :=
  ∀ (m : SineMap) (p W : Word16), W ≠ 0 →
    0 ≤ idealDuty p.toNat W.toNat ∧ idealDuty p.toNat W.toNat ≤ 255
    ∧ sineValue m (p % W) W ≤ 255

/-- R165: the half-period symmetry of v, of duty_ref and of every SINE_MAP, for an even period. -/
def Obligations.HalfPeriodShiftInvertsTheSine : Prop :=
  ∀ p q W : Word16, W ≠ 0 → W.toNat % 2 = 0 →
    q.toNat = (p.toNat + W.toNat / 2) % W.toNat →
    idealDuty p.toNat W.toNat + idealDuty q.toNat W.toNat = 255
    ∧ (Real.sin (2 * Real.pi * p.toNat / W.toNat) ≠ 0 →
        (sineMap .dutyRef p W).toNat + (sineMap .dutyRef q W).toNat = 255)
    ∧ (Real.sin (2 * Real.pi * p.toNat / W.toNat) = 0 →
        (sineMap .dutyRef p W).toNat = 128 ∧ (sineMap .dutyRef q W).toNat = 128)
    ∧ (∀ m : SineMap, 254 ≤ (sineMap m p W).toNat + (sineMap m q W).toNat
        ∧ (sineMap m p W).toNat + (sineMap m q W).toNat ≤ 256)

/-- R166: the exact points: every SINE_MAP where v is an integer, its peak and trough, and the twelfths
under duty_ref. -/
def Obligations.SineMapAtExactPoints : Prop :=
  (∀ (m : SineMap) (p W : Word16) (n : ℕ), W ≠ 0 → idealDuty p.toNat W.toNat = n →
      (sineMap m p W).toNat = n)
  ∧ (∀ (m : SineMap) (W : Word16), W ≠ 0 → W.toNat % 4 = 0 →
      sineMap m (BitVec.ofNat 16 (W.toNat / 4)) W = 255
      ∧ sineMap m (BitVec.ofNat 16 (3 * W.toNat / 4)) W = 0)
  ∧ (∀ W : Word16, W ≠ 0 → W.toNat % 12 = 0 →
      (idealDuty (W.toNat / 12) W.toNat = 191.25 ∧ idealDuty (5 * W.toNat / 12) W.toNat = 191.25
        ∧ idealDuty (7 * W.toNat / 12) W.toNat = 63.75
        ∧ idealDuty (11 * W.toNat / 12) W.toNat = 63.75)
      ∧ sineMap .dutyRef (BitVec.ofNat 16 (W.toNat / 12)) W = 191
      ∧ sineMap .dutyRef (BitVec.ofNat 16 (5 * W.toNat / 12)) W = 191
      ∧ sineMap .dutyRef (BitVec.ofNat 16 (7 * W.toNat / 12)) W = 64
      ∧ sineMap .dutyRef (BitVec.ofNat 16 (11 * W.toNat / 12)) W = 64)

/-- R163. -/
def Obligations.SynStepWritesOneSample : Prop :=
  (∀ v, decode v 0xA00000#24 = .cmd .synStep)
  ∧ (∀ s : State, s.wrap ≠ 0 → ∃ b, exec .synStep s = .next { s with
      dutyBuf := sineMap s.cfg.sineMap s.phase s.wrap, rspValid := b })
  ∧ (∀ s : State, s.wrap = 0 → exec .synStep s = .next { s with
      faults := s.faults ++ [⟨.wrapZero, s.cmdIndex, 0xA00000#24⟩] })
  ∧ (∀ W : Word16, W ≠ 0 → sineMap .dutyRef 0 W = 128)
  ∧ (∀ (m : SineMap) (p : Word16), sineMap m p 1 = sineMap m 0 1)

/-! ## frequency_selector_mux -/

/-- R190: PERIOD rounds R / f half up, and which frequencies have a usable period. -/
def Obligations.PeriodRoundsHalfUp : Prop :=
  ∀ r f : Freq, 0 < r.num → 0 < r.den → 0 < f.num → 0 < f.den →
    ((period r f : ℤ) = ⌊r.toRat / f.toRat + 1 / 2⌋)
    ∧ ((1 ≤ period r f ∧ period r f ≤ 65535) ↔
        (f.toRat ≤ 2 * r.toRat ∧ 2 * r.toRat / 131071 < f.toRat))

/-- R200: PERIOD is monotone non-increasing, and not strictly. -/
def Obligations.PeriodNeverRisesWithFrequency : Prop :=
  (∀ r f g : Freq, 0 < r.num → 0 < r.den → 0 < f.num → 0 < f.den → 0 < g.num → 0 < g.den →
      f.toRat < g.toRat → period r g ≤ period r f)
  ∧ period ⟨1000000, 1⟩ ⟨5999, 10⟩ = 1667 ∧ period ⟨1000000, 1⟩ ⟨600, 1⟩ = 1667

/-- R35, R191: in a well-formed VARIANT 2 every table entry is a period in 1..65535, uncut, and no step
changes the table. -/
def Obligations.TableHoldsUsablePeriods : Prop :=
  (∀ (c : Config) (code : Code), c.wf = true → c.variant = .two →
      (periodTable c code).toNat = period (tickRate c) (tableFreq c code)
      ∧ 1 ≤ (periodTable c code).toNat)
  ∧ (∀ s t : State, step s = .next t → t.cfg = s.cfg)

/-- R192. -/
def Obligations.SelReadReturnsTheSwitches : Prop :=
  decode .two 0xB00000#24 = .cmd .selRead
  ∧ (∀ s : State, s.cfg.variant = .two → exec .selRead s = .next { s with
      rsp := BitVec.ofNat 16 s.swS.toNat, rspValid := true })
  ∧ (∀ s : State, s.cfg.variant = .one → exec .selRead s = .next { s with
      faults := s.faults ++ [⟨.illegalCommand, s.cmdIndex, 0xB00000#24⟩] })

/-- R193. -/
def Obligations.SelLookupReturnsATableEntry : Prop :=
  (∀ code : Code, decode .two (BitVec.ofNat 24 (0xC00000 + code.toNat)) = .cmd (.selLookup code))
  ∧ (∀ (s : State) (code : Code), s.cfg.variant = .two →
      exec (.selLookup code) s = .next { s with
        rsp := periodTable s.cfg code, rspValid := true })
  ∧ (∀ (s : State) (code : Code), s.cfg.variant = .one →
      exec (.selLookup code) s = .next { s with faults := s.faults ++
        [⟨.illegalCommand, s.cmdIndex, BitVec.ofNat 24 (0xC00000 + code.toNat)⟩] })

/-- R194: WrapZero cannot occur, since a well-formed table holds no 0. -/
def Obligations.SelApplyWritesATableEntry : Prop :=
  (∀ code : Code, decode .two (BitVec.ofNat 24 (0xD00000 + code.toNat)) = .cmd (.selApply code))
  ∧ (∀ (s : State) (code : Code), s.cfg.variant = .two →
      ∃ b, exec (.selApply code) s = .next { s with
        wrap := periodTable s.cfg code, rspValid := b })
  ∧ (∀ (s : State) (code : Code), s.cfg.variant = .two → s.cfg.wf = true →
      periodTable s.cfg code ≠ 0)
  ∧ (∀ (s : State) (code : Code), s.cfg.variant = .one →
      exec (.selApply code) s = .next { s with faults := s.faults ++
        [⟨.illegalCommand, s.cmdIndex, BitVec.ofNat 24 (0xD00000 + code.toNat)⟩] })

/-- R195: one sample of the switches goes to both registers. -/
def Obligations.SelApplySwUsesOneSample : Prop :=
  decode .two 0xE00000#24 = .cmd .selApplySw
  ∧ (∀ s : State, s.cfg.variant = .two → exec .selApplySw s = .next { s with
      wrap := periodTable s.cfg s.swS, rsp := BitVec.ofNat 16 s.swS.toNat, rspValid := true })
  ∧ (∀ s : State, s.cfg.variant = .one → exec .selApplySw s = .next { s with
      faults := s.faults ++ [⟨.illegalCommand, s.cmdIndex, 0xE00000#24⟩] })

/-- R196: the SwitchEnv step sets sw_s and nothing a command can see beside it; VARIANT 1 has none. -/
def Obligations.SwitchEnvSetsTheSampledLevel : Prop :=
  ∀ (s : State) (v : Code),
    (s.cfg.variant = .two →
      (switchStep v s).swS = v
      ∧ ∃ pins stages, stages.length = s.sync.length
          ∧ switchStep v s = { s with sw := pins, sync := stages })
    ∧ (s.cfg.variant = .one → switchStep v s = s)

/-- R33, R197, R282: a clock edge with rst = 0, whatever command it carries, takes the level on the pins
and shifts the stages. So with n >= 1 stages a level on the pins is sw_s after n clock edges; with none it
is sw_s at once. -/
def Obligations.SwitchLevelSeenAfterTheStages : Prop :=
  ∀ (s : State) (cmd : Option CmdWord) (v : Code) (before after : List (Option CmdWord × Code)),
    s.cfg.variant = .two →
    (∃ t, clockEdge false cmd v s = .next t ∧ t.sw = v ∧ t.sync = (v :: s.sync).dropLast)
    ∧ (s.sync.length = after.length + 1 →
      ∃ t, performAll (runEdges (before ++ (cmd, v) :: after)) s = .next t ∧ t.swS = v)
    ∧ (s.sync = [] →
      ∃ t, performAll (runEdges (before ++ [(cmd, v)])) s = .next t ∧ t.swS = v)

/-! ## NOP, faults, reset -/

/-- R220, and R76: NOP's one word, and that every other word with op 0 is illegal. -/
def Obligations.NopDoesNothing : Prop :=
  (∀ (v : Variant) (w : CmdWord), decode v w = .cmd .nop ↔ w = 0)
  ∧ (∀ (v : Variant) (w : CmdWord), w.extractLsb' 20 4 = 0 → w ≠ 0 → ∃ r, decode v w = .illegal r)
  ∧ ∀ s : State, exec .nop s = .next { s with rspValid := false }

/-- R229, R242 to R244: a command word raises exactly the fault that `faultOf` names, which is recorded
with the command's index and word and changes nothing else; any other word records none. -/
def Obligations.FaultingCommandOnlyRecords : Prop :=
  ∀ (s : State) (w : CmdWord),
    (∀ k, faultOf s w = some k → hostStep w s = .next { s with
      cmdIndex := s.cmdIndex + 1
      faults := s.faults ++ [⟨k, s.cmdIndex + 1, w⟩] })
    ∧ (faultOf s w = none → ∃ t, hostStep w s = .next t ∧ t.faults = s.faults)

/-- R38, R243: FAULTS is empty at launch and no step, not even a reset, removes a record. -/
def Obligations.FaultRecordsAreNeverRemoved : Prop :=
  State.reset.faults = []
  ∧ ∀ s t : State, step s = .next t →
      ∃ new, t.faults = s.faults ++ new ∧ new.length ≤ 1

/-- R270, R272: reset from any state, by the Reset agent or by a clock edge with rst = 1. -/
def Obligations.ResetGivesEveryRegisterItsValue : Prop :=
  ∀ (s : State) (cmd : Option CmdWord) (sw : Code) (i : Input),
    i = .reset ∨ i = .edge true cmd sw →
    ∃ t, perform i s = .next t
      ∧ t.phase = 0 ∧ t.wrap = 0 ∧ t.ptCfg = false ∧ t.ptRun = false ∧ t.ptPre = 0
      ∧ t.dutyBuf = 0 ∧ t.dutyAct = 0 ∧ t.carrier = 0 ∧ t.pwmCfg = false ∧ t.pwmRun = false
      ∧ t.pwmPre = 0 ∧ t.rsp = 0 ∧ t.rspValid = false
      ∧ t.sync = List.replicate (syncStages s.cfg) 0
      ∧ pwmOut t = s.cfg.pwmIdleLevel ∧ t.cfg = s.cfg ∧ t.faults = s.faults

/-- R271: the launch state is the state of R270, for every configuration. -/
def Obligations.LaunchIsTheResetState : Prop :=
  ∀ c : Config, perform .reset (State.launch c) = .next (State.launch c)
    ∧ (State.launch c).cfg = c ∧ (State.launch c).faults = []

/-! ## The whole machine -/

/-- The invariant holds at reset. -/
def Obligations.InvariantHoldsAtReset : Prop := CoreInv State.reset

/-- R105, R25, R31, R33: every step keeps the invariant, from every state that meets it. -/
def Obligations.EveryStepKeepsTheInvariant : Prop :=
  ∀ s t : State, CoreInv s → step s = .next t → CoreInv t

/-- R20, R22 to R24, R26 to R30, R40: which commands may write which register. -/
def Obligations.CommandsWriteOnlyTheirRegisters : Prop :=
  ∀ (i : Instr) (s t : State), exec i s = .next t →
    (t.phase ≠ s.phase → i = .ptStop)
    ∧ (t.wrap ≠ s.wrap → (∃ k, i = .ptSetWrap k) ∨ (∃ c, i = .selApply c) ∨ i = .selApplySw)
    ∧ (t.ptCfg ≠ s.ptCfg → i = .ptConfig ∧ t.ptCfg = true)
    ∧ (t.ptRun ≠ s.ptRun → (i = .ptStart ∧ t.ptRun = true) ∨ (i = .ptStop ∧ t.ptRun = false))
    ∧ (t.ptPre ≠ s.ptPre → i = .ptStart)
    ∧ (t.dutyBuf ≠ s.dutyBuf → (∃ d, i = .pwmSetDuty d) ∨ i = .synStep)
    ∧ (t.dutyAct ≠ s.dutyAct ∨ t.carrier ≠ s.carrier ∨ t.pwmPre ≠ s.pwmPre → i = .pwmStart)
    ∧ (t.pwmCfg ≠ s.pwmCfg → i = .pwmConfig ∧ t.pwmCfg = true)
    ∧ (t.pwmRun ≠ s.pwmRun → (i = .pwmStart ∧ t.pwmRun = true) ∨ (i = .pwmStop ∧ t.pwmRun = false))
    ∧ t.cfg = s.cfg ∧ t.sw = s.sw ∧ t.sync = s.sync ∧ t.inputs = s.inputs
    ∧ t.cmdIndex = s.cmdIndex

/-- R32: only a read command changes RSP; rsp_valid is 1 after a clock edge exactly when that edge
accepted a read command; both are 0 after reset. -/
def Obligations.ResponseFollowsReadCommands : Prop :=
  (∀ (i : Instr) (s t : State), exec i s = .next t → i.isRead = false → t.rsp = s.rsp)
  ∧ (∀ (cmd : Option CmdWord) (sw : Code) (s t : State), clockEdge false cmd sw s = .next t →
      (t.rspValid = true ↔
        ∃ w i, cmd = some w ∧ decode s.cfg.variant w = .cmd i ∧ i.isRead = true)
      ∧ ((∀ w i, cmd = some w → decode s.cfg.variant w = .cmd i → i.isRead = false) →
          t.rsp = s.rsp))
  ∧ State.reset.rsp = 0 ∧ State.reset.rspValid = false

/-- R62: WRAP, DUTY_BUF and DUTY_ACT cannot be read by the host: no command's RSP depends on them. -/
def Obligations.WriteOnlyRegistersNeverReachRsp : Prop :=
  ∀ (i : Instr) (s t t' : State) (w : Word16) (d a : Duty), exec i s = .next t →
    exec i { s with wrap := w, dutyBuf := d, dutyAct := a } = .next t' → t'.rsp = t.rsp

/-- R55: a pure read changes RSP and rsp_valid only, and a write of WRAP or DUTY_BUF that has its effect,
done twice, is done once. -/
def Obligations.ReadsAreSideEffectFree : Prop :=
  (∀ (i : Instr) (s : State),
      i = .ptReadPhase ∨ (s.cfg.variant = .two ∧ (i = .selRead ∨ ∃ c, i = .selLookup c)) →
      ∃ r, exec i s = .next { s with rsp := r, rspValid := true })
  ∧ (∀ (i : Instr) (s t : State),
      (∃ k, i = .ptSetWrap k ∧ k ≠ 0) ∨ (∃ d, i = .pwmSetDuty d) ∨ (i = .synStep ∧ s.wrap ≠ 0)
        ∨ (s.cfg.variant = .two ∧ ((∃ c, i = .selApply c) ∨ i = .selApplySw)) →
      exec i s = .next t → exec i t = .next t)

/-- R109, R136: clock edges divide by the prescalers. n edges without a command perform
(PT_PRE + n) / PT_PRESCALE ticks of a running counter and (PWM_PRE + n) / PWM_PRESCALE steps of a
running carrier; a stopped timer's prescaler holds. One edge with any command, or with none, moves a
running timer's prescaler by one, and a stopped timer's only by the PT_START or PWM_START (R102, R132)
that takes effect at the edge, to 0. -/
def Obligations.EdgesDividedByThePrescalers : Prop :=
  ∀ s : State, s.ptPre < s.cfg.ptPrescale → s.pwmPre < s.cfg.pwmPrescale →
    (∀ levels : List Code, ∃ t, performAll (idleEdges levels) s = .next t
      ∧ (s.ptRun = true →
          t.phase = (ticks ((s.ptPre + levels.length) / s.cfg.ptPrescale) s).phase
          ∧ t.ptPre = (s.ptPre + levels.length) % s.cfg.ptPrescale)
      ∧ (s.ptRun = false → t.phase = s.phase ∧ t.ptPre = s.ptPre)
      ∧ (s.pwmRun = true →
          t.carrier = (carrierSteps ((s.pwmPre + levels.length) / s.cfg.pwmPrescale) s).carrier
          ∧ t.dutyAct = (carrierSteps ((s.pwmPre + levels.length) / s.cfg.pwmPrescale) s).dutyAct
          ∧ t.pwmPre = (s.pwmPre + levels.length) % s.cfg.pwmPrescale)
      ∧ (s.pwmRun = false → t.carrier = s.carrier ∧ t.dutyAct = s.dutyAct ∧ t.pwmPre = s.pwmPre))
    ∧ (∀ (cmd : Option CmdWord) (sw : Code), ∃ t, clockEdge false cmd sw s = .next t
      ∧ (s.ptRun = true → t.ptPre = (s.ptPre + 1) % s.cfg.ptPrescale)
      ∧ (s.ptRun = false →
          t.ptPre = if cmd = some 0x300000#24 ∧ s.ptCfg = true ∧ s.wrap ≠ 0 then 0 else s.ptPre)
      ∧ (s.pwmRun = true → t.pwmPre = (s.pwmPre + 1) % s.cfg.pwmPrescale)
      ∧ (s.pwmRun = false →
          t.pwmPre = if cmd = some 0x800000#24 ∧ s.pwmCfg = true then 0 else s.pwmPre))

/-- R283: every clock edge with rst = 0 equals an interleaving of event-level steps: the edge's command,
a TICK if one falls, a CARRIER_STEP if one falls, and switch changes. -/
def Obligations.ClockEdgeIsAnInterleaving : Prop :=
  ∀ (s t : State) (cmd : Option CmdWord) (sw : Code), CoreInv s →
    clockEdge false cmd sw s = .next t →
    ∃ (l : List Input) (u : State),
      l.all isEvent = true ∧ commandsOf l = cmd.toList
      ∧ l.count (.hw .tick) = (if tickDue s then 1 else 0)
      ∧ l.count (.hw .carrier) = (if carrierDue s then 1 else 0)
      ∧ performAll l s = .next u ∧ SameEvents t u

/-- R230: in a fair run whose counter keeps running, PHASE is 0 again and again, whatever the host and
the switches do in between. -/
def Obligations.FairCounterKeepsWrapping : Prop :=
  ∀ (schedule : Nat → Input) (run : Nat → State), IsRun schedule run → FairTicks schedule run →
    ∀ n, (∀ m, n ≤ m → (run m).ptRun = true) → ∃ m, n ≤ m ∧ (run m).phase = 0

/-- R230, R274: in a fair run whose carrier keeps running, a duty value that is not overwritten reaches
DUTY_ACT. -/
def Obligations.FairCarrierLoadsTheBuffer : Prop :=
  ∀ (schedule : Nat → Input) (run : Nat → State), IsRun schedule run → FairCarrier schedule run →
    ∀ (n : Nat) (d : Duty), (∀ m, n ≤ m → (run m).pwmRun = true ∧ (run m).dutyBuf = d) →
      ∃ m, n ≤ m ∧ (run m).dutyAct = d

/-- R228: in a well-formed configuration a run has an observed result, at which no command is left. When
the run has a command, that result is what the step of the last command answers; when it has none, it is
the starting state (log 25). Agent steps, edges without a command and resets that are scheduled behind the
last command change nothing of it but the schedule still to come. -/
def Obligations.RunEndsRightAfterItsLastCommand : Prop :=
  ∀ s : State, s.cfg.wf = true →
    (∃ t, EndOfRun s t ∧ NoCommandLeft t.inputs)
    ∧ (¬ NoCommandLeft s.inputs → ∃ (n : ℕ) (u t : State) (i : Input) (rest : List Input),
        steps n s = .next u ∧ u.inputs = i :: rest ∧ isCommand i = true ∧ NoCommandLeft rest
        ∧ step u = .next t ∧ t.inputs = rest ∧ EndOfRun s t)
    ∧ (NoCommandLeft s.inputs → EndOfRun s s)
    ∧ (∀ (more : List Input) (t : State), NoCommandLeft more → EndOfRun s t →
        EndOfRun { s with inputs := s.inputs ++ more } { t with inputs := t.inputs ++ more })
end

