-- ==== Sys2Proof/Laws/State.lean ====
section
/-! SUPPORT. One lemma per field per update of State, true by rfl, so that no later proof unfolds a
record update. -/

namespace Sys2Proof.Machine

variable (s : State)

@[simp] theorem State.respond_cfg (v : Word16) : (s.respond v).cfg = s.cfg := rfl
@[simp] theorem State.respond_phase (v : Word16) : (s.respond v).phase = s.phase := rfl
@[simp] theorem State.respond_wrap (v : Word16) : (s.respond v).wrap = s.wrap := rfl
@[simp] theorem State.respond_ptCfg (v : Word16) : (s.respond v).ptCfg = s.ptCfg := rfl
@[simp] theorem State.respond_ptRun (v : Word16) : (s.respond v).ptRun = s.ptRun := rfl
@[simp] theorem State.respond_ptPre (v : Word16) : (s.respond v).ptPre = s.ptPre := rfl
@[simp] theorem State.respond_dutyBuf (v : Word16) : (s.respond v).dutyBuf = s.dutyBuf := rfl
@[simp] theorem State.respond_dutyAct (v : Word16) : (s.respond v).dutyAct = s.dutyAct := rfl
@[simp] theorem State.respond_carrier (v : Word16) : (s.respond v).carrier = s.carrier := rfl
@[simp] theorem State.respond_pwmCfg (v : Word16) : (s.respond v).pwmCfg = s.pwmCfg := rfl
@[simp] theorem State.respond_pwmRun (v : Word16) : (s.respond v).pwmRun = s.pwmRun := rfl
@[simp] theorem State.respond_pwmPre (v : Word16) : (s.respond v).pwmPre = s.pwmPre := rfl
@[simp] theorem State.respond_rsp (v : Word16) : (s.respond v).rsp = v := rfl
@[simp] theorem State.respond_rspValid (v : Word16) : (s.respond v).rspValid = true := rfl
@[simp] theorem State.respond_sw (v : Word16) : (s.respond v).sw = s.sw := rfl
@[simp] theorem State.respond_sync (v : Word16) : (s.respond v).sync = s.sync := rfl
@[simp] theorem State.respond_faults (v : Word16) : (s.respond v).faults = s.faults := rfl
@[simp] theorem State.respond_cmdIndex (v : Word16) : (s.respond v).cmdIndex = s.cmdIndex := rfl
@[simp] theorem State.respond_inputs (v : Word16) : (s.respond v).inputs = s.inputs := rfl
@[simp] theorem State.respond_draws (v : Word16) : (s.respond v).draws = s.draws := rfl

@[simp] theorem State.noResponse_cfg : (s.noResponse).cfg = s.cfg := rfl
@[simp] theorem State.noResponse_phase : (s.noResponse).phase = s.phase := rfl
@[simp] theorem State.noResponse_wrap : (s.noResponse).wrap = s.wrap := rfl
@[simp] theorem State.noResponse_ptCfg : (s.noResponse).ptCfg = s.ptCfg := rfl
@[simp] theorem State.noResponse_ptRun : (s.noResponse).ptRun = s.ptRun := rfl
@[simp] theorem State.noResponse_ptPre : (s.noResponse).ptPre = s.ptPre := rfl
@[simp] theorem State.noResponse_dutyBuf : (s.noResponse).dutyBuf = s.dutyBuf := rfl
@[simp] theorem State.noResponse_dutyAct : (s.noResponse).dutyAct = s.dutyAct := rfl
@[simp] theorem State.noResponse_carrier : (s.noResponse).carrier = s.carrier := rfl
@[simp] theorem State.noResponse_pwmCfg : (s.noResponse).pwmCfg = s.pwmCfg := rfl
@[simp] theorem State.noResponse_pwmRun : (s.noResponse).pwmRun = s.pwmRun := rfl
@[simp] theorem State.noResponse_pwmPre : (s.noResponse).pwmPre = s.pwmPre := rfl
@[simp] theorem State.noResponse_rsp : (s.noResponse).rsp = s.rsp := rfl
@[simp] theorem State.noResponse_rspValid : (s.noResponse).rspValid = false := rfl
@[simp] theorem State.noResponse_sw : (s.noResponse).sw = s.sw := rfl
@[simp] theorem State.noResponse_sync : (s.noResponse).sync = s.sync := rfl
@[simp] theorem State.noResponse_faults : (s.noResponse).faults = s.faults := rfl
@[simp] theorem State.noResponse_cmdIndex : (s.noResponse).cmdIndex = s.cmdIndex := rfl
@[simp] theorem State.noResponse_inputs : (s.noResponse).inputs = s.inputs := rfl
@[simp] theorem State.noResponse_draws : (s.noResponse).draws = s.draws := rfl

@[simp] theorem State.setWrap_cfg (v : Word16) : (s.setWrap v).cfg = s.cfg := rfl
@[simp] theorem State.setWrap_phase (v : Word16) : (s.setWrap v).phase = s.phase := rfl
@[simp] theorem State.setWrap_wrap (v : Word16) : (s.setWrap v).wrap = v := rfl
@[simp] theorem State.setWrap_ptCfg (v : Word16) : (s.setWrap v).ptCfg = s.ptCfg := rfl
@[simp] theorem State.setWrap_ptRun (v : Word16) : (s.setWrap v).ptRun = s.ptRun := rfl
@[simp] theorem State.setWrap_ptPre (v : Word16) : (s.setWrap v).ptPre = s.ptPre := rfl
@[simp] theorem State.setWrap_dutyBuf (v : Word16) : (s.setWrap v).dutyBuf = s.dutyBuf := rfl
@[simp] theorem State.setWrap_dutyAct (v : Word16) : (s.setWrap v).dutyAct = s.dutyAct := rfl
@[simp] theorem State.setWrap_carrier (v : Word16) : (s.setWrap v).carrier = s.carrier := rfl
@[simp] theorem State.setWrap_pwmCfg (v : Word16) : (s.setWrap v).pwmCfg = s.pwmCfg := rfl
@[simp] theorem State.setWrap_pwmRun (v : Word16) : (s.setWrap v).pwmRun = s.pwmRun := rfl
@[simp] theorem State.setWrap_pwmPre (v : Word16) : (s.setWrap v).pwmPre = s.pwmPre := rfl
@[simp] theorem State.setWrap_rsp (v : Word16) : (s.setWrap v).rsp = s.rsp := rfl
@[simp] theorem State.setWrap_rspValid (v : Word16) : (s.setWrap v).rspValid = s.rspValid := rfl
@[simp] theorem State.setWrap_sw (v : Word16) : (s.setWrap v).sw = s.sw := rfl
@[simp] theorem State.setWrap_sync (v : Word16) : (s.setWrap v).sync = s.sync := rfl
@[simp] theorem State.setWrap_faults (v : Word16) : (s.setWrap v).faults = s.faults := rfl
@[simp] theorem State.setWrap_cmdIndex (v : Word16) : (s.setWrap v).cmdIndex = s.cmdIndex := rfl
@[simp] theorem State.setWrap_inputs (v : Word16) : (s.setWrap v).inputs = s.inputs := rfl
@[simp] theorem State.setWrap_draws (v : Word16) : (s.setWrap v).draws = s.draws := rfl

@[simp] theorem State.setDutyBuf_cfg (v : Duty) : (s.setDutyBuf v).cfg = s.cfg := rfl
@[simp] theorem State.setDutyBuf_phase (v : Duty) : (s.setDutyBuf v).phase = s.phase := rfl
@[simp] theorem State.setDutyBuf_wrap (v : Duty) : (s.setDutyBuf v).wrap = s.wrap := rfl
@[simp] theorem State.setDutyBuf_ptCfg (v : Duty) : (s.setDutyBuf v).ptCfg = s.ptCfg := rfl
@[simp] theorem State.setDutyBuf_ptRun (v : Duty) : (s.setDutyBuf v).ptRun = s.ptRun := rfl
@[simp] theorem State.setDutyBuf_ptPre (v : Duty) : (s.setDutyBuf v).ptPre = s.ptPre := rfl
@[simp] theorem State.setDutyBuf_dutyBuf (v : Duty) : (s.setDutyBuf v).dutyBuf = v := rfl
@[simp] theorem State.setDutyBuf_dutyAct (v : Duty) : (s.setDutyBuf v).dutyAct = s.dutyAct := rfl
@[simp] theorem State.setDutyBuf_carrier (v : Duty) : (s.setDutyBuf v).carrier = s.carrier := rfl
@[simp] theorem State.setDutyBuf_pwmCfg (v : Duty) : (s.setDutyBuf v).pwmCfg = s.pwmCfg := rfl
@[simp] theorem State.setDutyBuf_pwmRun (v : Duty) : (s.setDutyBuf v).pwmRun = s.pwmRun := rfl
@[simp] theorem State.setDutyBuf_pwmPre (v : Duty) : (s.setDutyBuf v).pwmPre = s.pwmPre := rfl
@[simp] theorem State.setDutyBuf_rsp (v : Duty) : (s.setDutyBuf v).rsp = s.rsp := rfl
@[simp] theorem State.setDutyBuf_rspValid (v : Duty) : (s.setDutyBuf v).rspValid = s.rspValid := rfl
@[simp] theorem State.setDutyBuf_sw (v : Duty) : (s.setDutyBuf v).sw = s.sw := rfl
@[simp] theorem State.setDutyBuf_sync (v : Duty) : (s.setDutyBuf v).sync = s.sync := rfl
@[simp] theorem State.setDutyBuf_faults (v : Duty) : (s.setDutyBuf v).faults = s.faults := rfl
@[simp] theorem State.setDutyBuf_cmdIndex (v : Duty) : (s.setDutyBuf v).cmdIndex = s.cmdIndex := rfl
@[simp] theorem State.setDutyBuf_inputs (v : Duty) : (s.setDutyBuf v).inputs = s.inputs := rfl
@[simp] theorem State.setDutyBuf_draws (v : Duty) : (s.setDutyBuf v).draws = s.draws := rfl

@[simp] theorem State.drawPhase_cfg : (s.drawPhase).cfg = s.cfg := rfl
@[simp] theorem State.drawPhase_phase : (s.drawPhase).phase = Config.freePhase s.draws := rfl
@[simp] theorem State.drawPhase_wrap : (s.drawPhase).wrap = s.wrap := rfl
@[simp] theorem State.drawPhase_ptCfg : (s.drawPhase).ptCfg = s.ptCfg := rfl
@[simp] theorem State.drawPhase_ptRun : (s.drawPhase).ptRun = s.ptRun := rfl
@[simp] theorem State.drawPhase_ptPre : (s.drawPhase).ptPre = s.ptPre := rfl
@[simp] theorem State.drawPhase_dutyBuf : (s.drawPhase).dutyBuf = s.dutyBuf := rfl
@[simp] theorem State.drawPhase_dutyAct : (s.drawPhase).dutyAct = s.dutyAct := rfl
@[simp] theorem State.drawPhase_carrier : (s.drawPhase).carrier = s.carrier := rfl
@[simp] theorem State.drawPhase_pwmCfg : (s.drawPhase).pwmCfg = s.pwmCfg := rfl
@[simp] theorem State.drawPhase_pwmRun : (s.drawPhase).pwmRun = s.pwmRun := rfl
@[simp] theorem State.drawPhase_pwmPre : (s.drawPhase).pwmPre = s.pwmPre := rfl
@[simp] theorem State.drawPhase_rsp : (s.drawPhase).rsp = s.rsp := rfl
@[simp] theorem State.drawPhase_rspValid : (s.drawPhase).rspValid = s.rspValid := rfl
@[simp] theorem State.drawPhase_sw : (s.drawPhase).sw = s.sw := rfl
@[simp] theorem State.drawPhase_sync : (s.drawPhase).sync = s.sync := rfl
@[simp] theorem State.drawPhase_faults : (s.drawPhase).faults = s.faults := rfl
@[simp] theorem State.drawPhase_cmdIndex : (s.drawPhase).cmdIndex = s.cmdIndex := rfl
@[simp] theorem State.drawPhase_inputs : (s.drawPhase).inputs = s.inputs := rfl
@[simp] theorem State.drawPhase_draws : (s.drawPhase).draws = s.draws + 1 := rfl

@[simp] theorem State.beginCarrier_cfg : (s.beginCarrier).cfg = s.cfg := rfl
@[simp] theorem State.beginCarrier_phase : (s.beginCarrier).phase = s.phase := rfl
@[simp] theorem State.beginCarrier_wrap : (s.beginCarrier).wrap = s.wrap := rfl
@[simp] theorem State.beginCarrier_ptCfg : (s.beginCarrier).ptCfg = s.ptCfg := rfl
@[simp] theorem State.beginCarrier_ptRun : (s.beginCarrier).ptRun = s.ptRun := rfl
@[simp] theorem State.beginCarrier_ptPre : (s.beginCarrier).ptPre = s.ptPre := rfl
@[simp] theorem State.beginCarrier_dutyBuf : (s.beginCarrier).dutyBuf = s.dutyBuf := rfl
@[simp] theorem State.beginCarrier_dutyAct : (s.beginCarrier).dutyAct = s.dutyBuf := rfl
@[simp] theorem State.beginCarrier_carrier : (s.beginCarrier).carrier = 0 := rfl
@[simp] theorem State.beginCarrier_pwmCfg : (s.beginCarrier).pwmCfg = s.pwmCfg := rfl
@[simp] theorem State.beginCarrier_pwmRun : (s.beginCarrier).pwmRun = s.pwmRun := rfl
@[simp] theorem State.beginCarrier_pwmPre : (s.beginCarrier).pwmPre = 0 := rfl
@[simp] theorem State.beginCarrier_rsp : (s.beginCarrier).rsp = s.rsp := rfl
@[simp] theorem State.beginCarrier_rspValid : (s.beginCarrier).rspValid = s.rspValid := rfl
@[simp] theorem State.beginCarrier_sw : (s.beginCarrier).sw = s.sw := rfl
@[simp] theorem State.beginCarrier_sync : (s.beginCarrier).sync = s.sync := rfl
@[simp] theorem State.beginCarrier_faults : (s.beginCarrier).faults = s.faults := rfl
@[simp] theorem State.beginCarrier_cmdIndex : (s.beginCarrier).cmdIndex = s.cmdIndex := rfl
@[simp] theorem State.beginCarrier_inputs : (s.beginCarrier).inputs = s.inputs := rfl
@[simp] theorem State.beginCarrier_draws : (s.beginCarrier).draws = s.draws := rfl

@[simp] theorem State.accept_cfg : (s.accept).cfg = s.cfg := rfl
@[simp] theorem State.accept_phase : (s.accept).phase = s.phase := rfl
@[simp] theorem State.accept_wrap : (s.accept).wrap = s.wrap := rfl
@[simp] theorem State.accept_ptCfg : (s.accept).ptCfg = s.ptCfg := rfl
@[simp] theorem State.accept_ptRun : (s.accept).ptRun = s.ptRun := rfl
@[simp] theorem State.accept_ptPre : (s.accept).ptPre = s.ptPre := rfl
@[simp] theorem State.accept_dutyBuf : (s.accept).dutyBuf = s.dutyBuf := rfl
@[simp] theorem State.accept_dutyAct : (s.accept).dutyAct = s.dutyAct := rfl
@[simp] theorem State.accept_carrier : (s.accept).carrier = s.carrier := rfl
@[simp] theorem State.accept_pwmCfg : (s.accept).pwmCfg = s.pwmCfg := rfl
@[simp] theorem State.accept_pwmRun : (s.accept).pwmRun = s.pwmRun := rfl
@[simp] theorem State.accept_pwmPre : (s.accept).pwmPre = s.pwmPre := rfl
@[simp] theorem State.accept_rsp : (s.accept).rsp = s.rsp := rfl
@[simp] theorem State.accept_rspValid : (s.accept).rspValid = s.rspValid := rfl
@[simp] theorem State.accept_sw : (s.accept).sw = s.sw := rfl
@[simp] theorem State.accept_sync : (s.accept).sync = s.sync := rfl
@[simp] theorem State.accept_faults : (s.accept).faults = s.faults := rfl
@[simp] theorem State.accept_cmdIndex : (s.accept).cmdIndex = s.cmdIndex + 1 := rfl
@[simp] theorem State.accept_inputs : (s.accept).inputs = s.inputs := rfl
@[simp] theorem State.accept_draws : (s.accept).draws = s.draws := rfl

@[simp] theorem State.setPtCfg_cfg (b : Bool) : (s.setPtCfg b).cfg = s.cfg := rfl
@[simp] theorem State.setPtCfg_phase (b : Bool) : (s.setPtCfg b).phase = s.phase := rfl
@[simp] theorem State.setPtCfg_wrap (b : Bool) : (s.setPtCfg b).wrap = s.wrap := rfl
@[simp] theorem State.setPtCfg_ptCfg (b : Bool) : (s.setPtCfg b).ptCfg = b := rfl
@[simp] theorem State.setPtCfg_ptRun (b : Bool) : (s.setPtCfg b).ptRun = s.ptRun := rfl
@[simp] theorem State.setPtCfg_ptPre (b : Bool) : (s.setPtCfg b).ptPre = s.ptPre := rfl
@[simp] theorem State.setPtCfg_dutyBuf (b : Bool) : (s.setPtCfg b).dutyBuf = s.dutyBuf := rfl
@[simp] theorem State.setPtCfg_dutyAct (b : Bool) : (s.setPtCfg b).dutyAct = s.dutyAct := rfl
@[simp] theorem State.setPtCfg_carrier (b : Bool) : (s.setPtCfg b).carrier = s.carrier := rfl
@[simp] theorem State.setPtCfg_pwmCfg (b : Bool) : (s.setPtCfg b).pwmCfg = s.pwmCfg := rfl
@[simp] theorem State.setPtCfg_pwmRun (b : Bool) : (s.setPtCfg b).pwmRun = s.pwmRun := rfl
@[simp] theorem State.setPtCfg_pwmPre (b : Bool) : (s.setPtCfg b).pwmPre = s.pwmPre := rfl
@[simp] theorem State.setPtCfg_rsp (b : Bool) : (s.setPtCfg b).rsp = s.rsp := rfl
@[simp] theorem State.setPtCfg_rspValid (b : Bool) : (s.setPtCfg b).rspValid = s.rspValid := rfl
@[simp] theorem State.setPtCfg_sw (b : Bool) : (s.setPtCfg b).sw = s.sw := rfl
@[simp] theorem State.setPtCfg_sync (b : Bool) : (s.setPtCfg b).sync = s.sync := rfl
@[simp] theorem State.setPtCfg_faults (b : Bool) : (s.setPtCfg b).faults = s.faults := rfl
@[simp] theorem State.setPtCfg_cmdIndex (b : Bool) : (s.setPtCfg b).cmdIndex = s.cmdIndex := rfl
@[simp] theorem State.setPtCfg_inputs (b : Bool) : (s.setPtCfg b).inputs = s.inputs := rfl
@[simp] theorem State.setPtCfg_draws (b : Bool) : (s.setPtCfg b).draws = s.draws := rfl

@[simp] theorem State.setPtRun_cfg (b : Bool) : (s.setPtRun b).cfg = s.cfg := rfl
@[simp] theorem State.setPtRun_phase (b : Bool) : (s.setPtRun b).phase = s.phase := rfl
@[simp] theorem State.setPtRun_wrap (b : Bool) : (s.setPtRun b).wrap = s.wrap := rfl
@[simp] theorem State.setPtRun_ptCfg (b : Bool) : (s.setPtRun b).ptCfg = s.ptCfg := rfl
@[simp] theorem State.setPtRun_ptRun (b : Bool) : (s.setPtRun b).ptRun = b := rfl
@[simp] theorem State.setPtRun_ptPre (b : Bool) : (s.setPtRun b).ptPre = s.ptPre := rfl
@[simp] theorem State.setPtRun_dutyBuf (b : Bool) : (s.setPtRun b).dutyBuf = s.dutyBuf := rfl
@[simp] theorem State.setPtRun_dutyAct (b : Bool) : (s.setPtRun b).dutyAct = s.dutyAct := rfl
@[simp] theorem State.setPtRun_carrier (b : Bool) : (s.setPtRun b).carrier = s.carrier := rfl
@[simp] theorem State.setPtRun_pwmCfg (b : Bool) : (s.setPtRun b).pwmCfg = s.pwmCfg := rfl
@[simp] theorem State.setPtRun_pwmRun (b : Bool) : (s.setPtRun b).pwmRun = s.pwmRun := rfl
@[simp] theorem State.setPtRun_pwmPre (b : Bool) : (s.setPtRun b).pwmPre = s.pwmPre := rfl
@[simp] theorem State.setPtRun_rsp (b : Bool) : (s.setPtRun b).rsp = s.rsp := rfl
@[simp] theorem State.setPtRun_rspValid (b : Bool) : (s.setPtRun b).rspValid = s.rspValid := rfl
@[simp] theorem State.setPtRun_sw (b : Bool) : (s.setPtRun b).sw = s.sw := rfl
@[simp] theorem State.setPtRun_sync (b : Bool) : (s.setPtRun b).sync = s.sync := rfl
@[simp] theorem State.setPtRun_faults (b : Bool) : (s.setPtRun b).faults = s.faults := rfl
@[simp] theorem State.setPtRun_cmdIndex (b : Bool) : (s.setPtRun b).cmdIndex = s.cmdIndex := rfl
@[simp] theorem State.setPtRun_inputs (b : Bool) : (s.setPtRun b).inputs = s.inputs := rfl
@[simp] theorem State.setPtRun_draws (b : Bool) : (s.setPtRun b).draws = s.draws := rfl

@[simp] theorem State.setPwmCfg_cfg (b : Bool) : (s.setPwmCfg b).cfg = s.cfg := rfl
@[simp] theorem State.setPwmCfg_phase (b : Bool) : (s.setPwmCfg b).phase = s.phase := rfl
@[simp] theorem State.setPwmCfg_wrap (b : Bool) : (s.setPwmCfg b).wrap = s.wrap := rfl
@[simp] theorem State.setPwmCfg_ptCfg (b : Bool) : (s.setPwmCfg b).ptCfg = s.ptCfg := rfl
@[simp] theorem State.setPwmCfg_ptRun (b : Bool) : (s.setPwmCfg b).ptRun = s.ptRun := rfl
@[simp] theorem State.setPwmCfg_ptPre (b : Bool) : (s.setPwmCfg b).ptPre = s.ptPre := rfl
@[simp] theorem State.setPwmCfg_dutyBuf (b : Bool) : (s.setPwmCfg b).dutyBuf = s.dutyBuf := rfl
@[simp] theorem State.setPwmCfg_dutyAct (b : Bool) : (s.setPwmCfg b).dutyAct = s.dutyAct := rfl
@[simp] theorem State.setPwmCfg_carrier (b : Bool) : (s.setPwmCfg b).carrier = s.carrier := rfl
@[simp] theorem State.setPwmCfg_pwmCfg (b : Bool) : (s.setPwmCfg b).pwmCfg = b := rfl
@[simp] theorem State.setPwmCfg_pwmRun (b : Bool) : (s.setPwmCfg b).pwmRun = s.pwmRun := rfl
@[simp] theorem State.setPwmCfg_pwmPre (b : Bool) : (s.setPwmCfg b).pwmPre = s.pwmPre := rfl
@[simp] theorem State.setPwmCfg_rsp (b : Bool) : (s.setPwmCfg b).rsp = s.rsp := rfl
@[simp] theorem State.setPwmCfg_rspValid (b : Bool) : (s.setPwmCfg b).rspValid = s.rspValid := rfl
@[simp] theorem State.setPwmCfg_sw (b : Bool) : (s.setPwmCfg b).sw = s.sw := rfl
@[simp] theorem State.setPwmCfg_sync (b : Bool) : (s.setPwmCfg b).sync = s.sync := rfl
@[simp] theorem State.setPwmCfg_faults (b : Bool) : (s.setPwmCfg b).faults = s.faults := rfl
@[simp] theorem State.setPwmCfg_cmdIndex (b : Bool) : (s.setPwmCfg b).cmdIndex = s.cmdIndex := rfl
@[simp] theorem State.setPwmCfg_inputs (b : Bool) : (s.setPwmCfg b).inputs = s.inputs := rfl
@[simp] theorem State.setPwmCfg_draws (b : Bool) : (s.setPwmCfg b).draws = s.draws := rfl

@[simp] theorem State.setPwmRun_cfg (b : Bool) : (s.setPwmRun b).cfg = s.cfg := rfl
@[simp] theorem State.setPwmRun_phase (b : Bool) : (s.setPwmRun b).phase = s.phase := rfl
@[simp] theorem State.setPwmRun_wrap (b : Bool) : (s.setPwmRun b).wrap = s.wrap := rfl
@[simp] theorem State.setPwmRun_ptCfg (b : Bool) : (s.setPwmRun b).ptCfg = s.ptCfg := rfl
@[simp] theorem State.setPwmRun_ptRun (b : Bool) : (s.setPwmRun b).ptRun = s.ptRun := rfl
@[simp] theorem State.setPwmRun_ptPre (b : Bool) : (s.setPwmRun b).ptPre = s.ptPre := rfl
@[simp] theorem State.setPwmRun_dutyBuf (b : Bool) : (s.setPwmRun b).dutyBuf = s.dutyBuf := rfl
@[simp] theorem State.setPwmRun_dutyAct (b : Bool) : (s.setPwmRun b).dutyAct = s.dutyAct := rfl
@[simp] theorem State.setPwmRun_carrier (b : Bool) : (s.setPwmRun b).carrier = s.carrier := rfl
@[simp] theorem State.setPwmRun_pwmCfg (b : Bool) : (s.setPwmRun b).pwmCfg = s.pwmCfg := rfl
@[simp] theorem State.setPwmRun_pwmRun (b : Bool) : (s.setPwmRun b).pwmRun = b := rfl
@[simp] theorem State.setPwmRun_pwmPre (b : Bool) : (s.setPwmRun b).pwmPre = s.pwmPre := rfl
@[simp] theorem State.setPwmRun_rsp (b : Bool) : (s.setPwmRun b).rsp = s.rsp := rfl
@[simp] theorem State.setPwmRun_rspValid (b : Bool) : (s.setPwmRun b).rspValid = s.rspValid := rfl
@[simp] theorem State.setPwmRun_sw (b : Bool) : (s.setPwmRun b).sw = s.sw := rfl
@[simp] theorem State.setPwmRun_sync (b : Bool) : (s.setPwmRun b).sync = s.sync := rfl
@[simp] theorem State.setPwmRun_faults (b : Bool) : (s.setPwmRun b).faults = s.faults := rfl
@[simp] theorem State.setPwmRun_cmdIndex (b : Bool) : (s.setPwmRun b).cmdIndex = s.cmdIndex := rfl
@[simp] theorem State.setPwmRun_inputs (b : Bool) : (s.setPwmRun b).inputs = s.inputs := rfl
@[simp] theorem State.setPwmRun_draws (b : Bool) : (s.setPwmRun b).draws = s.draws := rfl

@[simp] theorem State.clearPtPre_cfg : (s.clearPtPre).cfg = s.cfg := rfl
@[simp] theorem State.clearPtPre_phase : (s.clearPtPre).phase = s.phase := rfl
@[simp] theorem State.clearPtPre_wrap : (s.clearPtPre).wrap = s.wrap := rfl
@[simp] theorem State.clearPtPre_ptCfg : (s.clearPtPre).ptCfg = s.ptCfg := rfl
@[simp] theorem State.clearPtPre_ptRun : (s.clearPtPre).ptRun = s.ptRun := rfl
@[simp] theorem State.clearPtPre_ptPre : (s.clearPtPre).ptPre = 0 := rfl
@[simp] theorem State.clearPtPre_dutyBuf : (s.clearPtPre).dutyBuf = s.dutyBuf := rfl
@[simp] theorem State.clearPtPre_dutyAct : (s.clearPtPre).dutyAct = s.dutyAct := rfl
@[simp] theorem State.clearPtPre_carrier : (s.clearPtPre).carrier = s.carrier := rfl
@[simp] theorem State.clearPtPre_pwmCfg : (s.clearPtPre).pwmCfg = s.pwmCfg := rfl
@[simp] theorem State.clearPtPre_pwmRun : (s.clearPtPre).pwmRun = s.pwmRun := rfl
@[simp] theorem State.clearPtPre_pwmPre : (s.clearPtPre).pwmPre = s.pwmPre := rfl
@[simp] theorem State.clearPtPre_rsp : (s.clearPtPre).rsp = s.rsp := rfl
@[simp] theorem State.clearPtPre_rspValid : (s.clearPtPre).rspValid = s.rspValid := rfl
@[simp] theorem State.clearPtPre_sw : (s.clearPtPre).sw = s.sw := rfl
@[simp] theorem State.clearPtPre_sync : (s.clearPtPre).sync = s.sync := rfl
@[simp] theorem State.clearPtPre_faults : (s.clearPtPre).faults = s.faults := rfl
@[simp] theorem State.clearPtPre_cmdIndex : (s.clearPtPre).cmdIndex = s.cmdIndex := rfl
@[simp] theorem State.clearPtPre_inputs : (s.clearPtPre).inputs = s.inputs := rfl
@[simp] theorem State.clearPtPre_draws : (s.clearPtPre).draws = s.draws := rfl

@[simp] theorem State.schedule_cfg (l : List Input) : (s.schedule l).cfg = s.cfg := rfl
@[simp] theorem State.schedule_phase (l : List Input) : (s.schedule l).phase = s.phase := rfl
@[simp] theorem State.schedule_wrap (l : List Input) : (s.schedule l).wrap = s.wrap := rfl
@[simp] theorem State.schedule_ptCfg (l : List Input) : (s.schedule l).ptCfg = s.ptCfg := rfl
@[simp] theorem State.schedule_ptRun (l : List Input) : (s.schedule l).ptRun = s.ptRun := rfl
@[simp] theorem State.schedule_ptPre (l : List Input) : (s.schedule l).ptPre = s.ptPre := rfl
@[simp] theorem State.schedule_dutyBuf (l : List Input) : (s.schedule l).dutyBuf = s.dutyBuf := rfl
@[simp] theorem State.schedule_dutyAct (l : List Input) : (s.schedule l).dutyAct = s.dutyAct := rfl
@[simp] theorem State.schedule_carrier (l : List Input) : (s.schedule l).carrier = s.carrier := rfl
@[simp] theorem State.schedule_pwmCfg (l : List Input) : (s.schedule l).pwmCfg = s.pwmCfg := rfl
@[simp] theorem State.schedule_pwmRun (l : List Input) : (s.schedule l).pwmRun = s.pwmRun := rfl
@[simp] theorem State.schedule_pwmPre (l : List Input) : (s.schedule l).pwmPre = s.pwmPre := rfl
@[simp] theorem State.schedule_rsp (l : List Input) : (s.schedule l).rsp = s.rsp := rfl
@[simp] theorem State.schedule_rspValid (l : List Input) : (s.schedule l).rspValid = s.rspValid := rfl
@[simp] theorem State.schedule_sw (l : List Input) : (s.schedule l).sw = s.sw := rfl
@[simp] theorem State.schedule_sync (l : List Input) : (s.schedule l).sync = s.sync := rfl
@[simp] theorem State.schedule_faults (l : List Input) : (s.schedule l).faults = s.faults := rfl
@[simp] theorem State.schedule_cmdIndex (l : List Input) : (s.schedule l).cmdIndex = s.cmdIndex := rfl
@[simp] theorem State.schedule_inputs (l : List Input) : (s.schedule l).inputs = l := rfl
@[simp] theorem State.schedule_draws (l : List Input) : (s.schedule l).draws = s.draws := rfl

@[simp] theorem resetCore_cfg : (resetCore s).cfg = s.cfg := rfl
@[simp] theorem resetCore_phase : (resetCore s).phase = 0 := rfl
@[simp] theorem resetCore_wrap : (resetCore s).wrap = 0 := rfl
@[simp] theorem resetCore_ptCfg : (resetCore s).ptCfg = false := rfl
@[simp] theorem resetCore_ptRun : (resetCore s).ptRun = false := rfl
@[simp] theorem resetCore_ptPre : (resetCore s).ptPre = 0 := rfl
@[simp] theorem resetCore_dutyBuf : (resetCore s).dutyBuf = 0 := rfl
@[simp] theorem resetCore_dutyAct : (resetCore s).dutyAct = 0 := rfl
@[simp] theorem resetCore_carrier : (resetCore s).carrier = 0 := rfl
@[simp] theorem resetCore_pwmCfg : (resetCore s).pwmCfg = false := rfl
@[simp] theorem resetCore_pwmRun : (resetCore s).pwmRun = false := rfl
@[simp] theorem resetCore_pwmPre : (resetCore s).pwmPre = 0 := rfl
@[simp] theorem resetCore_rsp : (resetCore s).rsp = 0 := rfl
@[simp] theorem resetCore_rspValid : (resetCore s).rspValid = false := rfl
@[simp] theorem resetCore_sw : (resetCore s).sw = s.sw := rfl
@[simp] theorem resetCore_sync : (resetCore s).sync = List.replicate (syncStages s.cfg) 0 := rfl
@[simp] theorem resetCore_faults : (resetCore s).faults = s.faults := rfl
@[simp] theorem resetCore_cmdIndex : (resetCore s).cmdIndex = 0 := rfl
@[simp] theorem resetCore_inputs : (resetCore s).inputs = s.inputs := rfl
@[simp] theorem resetCore_draws : (resetCore s).draws = s.draws := rfl

@[simp] theorem clocked_cfg (c : State) : (clocked s c).cfg = c.cfg := rfl
@[simp] theorem clocked_phase (c : State) : (clocked s c).phase = edgePhase s c := rfl
@[simp] theorem clocked_wrap (c : State) : (clocked s c).wrap = c.wrap := rfl
@[simp] theorem clocked_ptCfg (c : State) : (clocked s c).ptCfg = c.ptCfg := rfl
@[simp] theorem clocked_ptRun (c : State) : (clocked s c).ptRun = c.ptRun := rfl
@[simp] theorem clocked_ptPre (c : State) : (clocked s c).ptPre = edgePtPre s c := rfl
@[simp] theorem clocked_dutyBuf (c : State) : (clocked s c).dutyBuf = c.dutyBuf := rfl
@[simp] theorem clocked_dutyAct (c : State) : (clocked s c).dutyAct = edgeDutyAct s c := rfl
@[simp] theorem clocked_carrier (c : State) : (clocked s c).carrier = edgeCarrier s c := rfl
@[simp] theorem clocked_pwmCfg (c : State) : (clocked s c).pwmCfg = c.pwmCfg := rfl
@[simp] theorem clocked_pwmRun (c : State) : (clocked s c).pwmRun = c.pwmRun := rfl
@[simp] theorem clocked_pwmPre (c : State) : (clocked s c).pwmPre = edgePwmPre s c := rfl
@[simp] theorem clocked_rsp (c : State) : (clocked s c).rsp = c.rsp := rfl
@[simp] theorem clocked_rspValid (c : State) : (clocked s c).rspValid = c.rspValid := rfl
@[simp] theorem clocked_sw (c : State) : (clocked s c).sw = c.sw := rfl
@[simp] theorem clocked_sync (c : State) : (clocked s c).sync = shiftSync s.sw s.sync := rfl
@[simp] theorem clocked_faults (c : State) : (clocked s c).faults = c.faults := rfl
@[simp] theorem clocked_cmdIndex (c : State) : (clocked s c).cmdIndex = c.cmdIndex := rfl
@[simp] theorem clocked_inputs (c : State) : (clocked s c).inputs = c.inputs := rfl
@[simp] theorem clocked_draws (c : State) : (clocked s c).draws = c.draws := rfl

@[simp] theorem tickStep_cfg : (tickStep s).cfg = s.cfg := by unfold tickStep; split <;> rfl
@[simp] theorem tickStep_wrap : (tickStep s).wrap = s.wrap := by unfold tickStep; split <;> rfl
@[simp] theorem tickStep_ptCfg : (tickStep s).ptCfg = s.ptCfg := by unfold tickStep; split <;> rfl
@[simp] theorem tickStep_ptRun : (tickStep s).ptRun = s.ptRun := by unfold tickStep; split <;> rfl
@[simp] theorem tickStep_ptPre : (tickStep s).ptPre = s.ptPre := by unfold tickStep; split <;> rfl
@[simp] theorem tickStep_dutyBuf : (tickStep s).dutyBuf = s.dutyBuf := by unfold tickStep; split <;> rfl
@[simp] theorem tickStep_dutyAct : (tickStep s).dutyAct = s.dutyAct := by unfold tickStep; split <;> rfl
@[simp] theorem tickStep_carrier : (tickStep s).carrier = s.carrier := by unfold tickStep; split <;> rfl
@[simp] theorem tickStep_pwmCfg : (tickStep s).pwmCfg = s.pwmCfg := by unfold tickStep; split <;> rfl
@[simp] theorem tickStep_pwmRun : (tickStep s).pwmRun = s.pwmRun := by unfold tickStep; split <;> rfl
@[simp] theorem tickStep_pwmPre : (tickStep s).pwmPre = s.pwmPre := by unfold tickStep; split <;> rfl
@[simp] theorem tickStep_rsp : (tickStep s).rsp = s.rsp := by unfold tickStep; split <;> rfl
@[simp] theorem tickStep_rspValid : (tickStep s).rspValid = s.rspValid := by unfold tickStep; split <;> rfl
@[simp] theorem tickStep_sw : (tickStep s).sw = s.sw := by unfold tickStep; split <;> rfl
@[simp] theorem tickStep_sync : (tickStep s).sync = s.sync := by unfold tickStep; split <;> rfl
@[simp] theorem tickStep_faults : (tickStep s).faults = s.faults := by unfold tickStep; split <;> rfl
@[simp] theorem tickStep_cmdIndex : (tickStep s).cmdIndex = s.cmdIndex := by unfold tickStep; split <;> rfl
@[simp] theorem tickStep_inputs : (tickStep s).inputs = s.inputs := by unfold tickStep; split <;> rfl
@[simp] theorem tickStep_draws : (tickStep s).draws = s.draws := by unfold tickStep; split <;> rfl

@[simp] theorem carrierStep_cfg : (carrierStep s).cfg = s.cfg := by
  unfold carrierStep; split <;> (try split) <;> rfl
@[simp] theorem carrierStep_phase : (carrierStep s).phase = s.phase := by
  unfold carrierStep; split <;> (try split) <;> rfl
@[simp] theorem carrierStep_wrap : (carrierStep s).wrap = s.wrap := by
  unfold carrierStep; split <;> (try split) <;> rfl
@[simp] theorem carrierStep_ptCfg : (carrierStep s).ptCfg = s.ptCfg := by
  unfold carrierStep; split <;> (try split) <;> rfl
@[simp] theorem carrierStep_ptRun : (carrierStep s).ptRun = s.ptRun := by
  unfold carrierStep; split <;> (try split) <;> rfl
@[simp] theorem carrierStep_ptPre : (carrierStep s).ptPre = s.ptPre := by
  unfold carrierStep; split <;> (try split) <;> rfl
@[simp] theorem carrierStep_dutyBuf : (carrierStep s).dutyBuf = s.dutyBuf := by
  unfold carrierStep; split <;> (try split) <;> rfl
@[simp] theorem carrierStep_pwmCfg : (carrierStep s).pwmCfg = s.pwmCfg := by
  unfold carrierStep; split <;> (try split) <;> rfl
@[simp] theorem carrierStep_pwmRun : (carrierStep s).pwmRun = s.pwmRun := by
  unfold carrierStep; split <;> (try split) <;> rfl
@[simp] theorem carrierStep_pwmPre : (carrierStep s).pwmPre = s.pwmPre := by
  unfold carrierStep; split <;> (try split) <;> rfl
@[simp] theorem carrierStep_rsp : (carrierStep s).rsp = s.rsp := by
  unfold carrierStep; split <;> (try split) <;> rfl
@[simp] theorem carrierStep_rspValid : (carrierStep s).rspValid = s.rspValid := by
  unfold carrierStep; split <;> (try split) <;> rfl
@[simp] theorem carrierStep_sw : (carrierStep s).sw = s.sw := by
  unfold carrierStep; split <;> (try split) <;> rfl
@[simp] theorem carrierStep_sync : (carrierStep s).sync = s.sync := by
  unfold carrierStep; split <;> (try split) <;> rfl
@[simp] theorem carrierStep_faults : (carrierStep s).faults = s.faults := by
  unfold carrierStep; split <;> (try split) <;> rfl
@[simp] theorem carrierStep_cmdIndex : (carrierStep s).cmdIndex = s.cmdIndex := by
  unfold carrierStep; split <;> (try split) <;> rfl
@[simp] theorem carrierStep_inputs : (carrierStep s).inputs = s.inputs := by
  unfold carrierStep; split <;> (try split) <;> rfl
@[simp] theorem carrierStep_draws : (carrierStep s).draws = s.draws := by
  unfold carrierStep; split <;> (try split) <;> rfl

@[simp] theorem setSwS_cfg (v : Code) : (s.setSwS v).cfg = s.cfg := by
  unfold State.setSwS; split <;> rfl
@[simp] theorem switchStep_cfg (v : Code) : (switchStep v s).cfg = s.cfg := by
  unfold switchStep; split <;> simp
@[simp] theorem setSwS_phase (v : Code) : (s.setSwS v).phase = s.phase := by
  unfold State.setSwS; split <;> rfl
@[simp] theorem switchStep_phase (v : Code) : (switchStep v s).phase = s.phase := by
  unfold switchStep; split <;> simp
@[simp] theorem setSwS_wrap (v : Code) : (s.setSwS v).wrap = s.wrap := by
  unfold State.setSwS; split <;> rfl
@[simp] theorem switchStep_wrap (v : Code) : (switchStep v s).wrap = s.wrap := by
  unfold switchStep; split <;> simp
@[simp] theorem setSwS_ptCfg (v : Code) : (s.setSwS v).ptCfg = s.ptCfg := by
  unfold State.setSwS; split <;> rfl
@[simp] theorem switchStep_ptCfg (v : Code) : (switchStep v s).ptCfg = s.ptCfg := by
  unfold switchStep; split <;> simp
@[simp] theorem setSwS_ptRun (v : Code) : (s.setSwS v).ptRun = s.ptRun := by
  unfold State.setSwS; split <;> rfl
@[simp] theorem switchStep_ptRun (v : Code) : (switchStep v s).ptRun = s.ptRun := by
  unfold switchStep; split <;> simp
@[simp] theorem setSwS_ptPre (v : Code) : (s.setSwS v).ptPre = s.ptPre := by
  unfold State.setSwS; split <;> rfl
@[simp] theorem switchStep_ptPre (v : Code) : (switchStep v s).ptPre = s.ptPre := by
  unfold switchStep; split <;> simp
@[simp] theorem setSwS_dutyBuf (v : Code) : (s.setSwS v).dutyBuf = s.dutyBuf := by
  unfold State.setSwS; split <;> rfl
@[simp] theorem switchStep_dutyBuf (v : Code) : (switchStep v s).dutyBuf = s.dutyBuf := by
  unfold switchStep; split <;> simp
@[simp] theorem setSwS_dutyAct (v : Code) : (s.setSwS v).dutyAct = s.dutyAct := by
  unfold State.setSwS; split <;> rfl
@[simp] theorem switchStep_dutyAct (v : Code) : (switchStep v s).dutyAct = s.dutyAct := by
  unfold switchStep; split <;> simp
@[simp] theorem setSwS_carrier (v : Code) : (s.setSwS v).carrier = s.carrier := by
  unfold State.setSwS; split <;> rfl
@[simp] theorem switchStep_carrier (v : Code) : (switchStep v s).carrier = s.carrier := by
  unfold switchStep; split <;> simp
@[simp] theorem setSwS_pwmCfg (v : Code) : (s.setSwS v).pwmCfg = s.pwmCfg := by
  unfold State.setSwS; split <;> rfl
@[simp] theorem switchStep_pwmCfg (v : Code) : (switchStep v s).pwmCfg = s.pwmCfg := by
  unfold switchStep; split <;> simp
@[simp] theorem setSwS_pwmRun (v : Code) : (s.setSwS v).pwmRun = s.pwmRun := by
  unfold State.setSwS; split <;> rfl
@[simp] theorem switchStep_pwmRun (v : Code) : (switchStep v s).pwmRun = s.pwmRun := by
  unfold switchStep; split <;> simp
@[simp] theorem setSwS_pwmPre (v : Code) : (s.setSwS v).pwmPre = s.pwmPre := by
  unfold State.setSwS; split <;> rfl
@[simp] theorem switchStep_pwmPre (v : Code) : (switchStep v s).pwmPre = s.pwmPre := by
  unfold switchStep; split <;> simp
@[simp] theorem setSwS_rsp (v : Code) : (s.setSwS v).rsp = s.rsp := by
  unfold State.setSwS; split <;> rfl
@[simp] theorem switchStep_rsp (v : Code) : (switchStep v s).rsp = s.rsp := by
  unfold switchStep; split <;> simp
@[simp] theorem setSwS_rspValid (v : Code) : (s.setSwS v).rspValid = s.rspValid := by
  unfold State.setSwS; split <;> rfl
@[simp] theorem switchStep_rspValid (v : Code) : (switchStep v s).rspValid = s.rspValid := by
  unfold switchStep; split <;> simp
@[simp] theorem setSwS_faults (v : Code) : (s.setSwS v).faults = s.faults := by
  unfold State.setSwS; split <;> rfl
@[simp] theorem switchStep_faults (v : Code) : (switchStep v s).faults = s.faults := by
  unfold switchStep; split <;> simp
@[simp] theorem setSwS_cmdIndex (v : Code) : (s.setSwS v).cmdIndex = s.cmdIndex := by
  unfold State.setSwS; split <;> rfl
@[simp] theorem switchStep_cmdIndex (v : Code) : (switchStep v s).cmdIndex = s.cmdIndex := by
  unfold switchStep; split <;> simp
@[simp] theorem setSwS_inputs (v : Code) : (s.setSwS v).inputs = s.inputs := by
  unfold State.setSwS; split <;> rfl
@[simp] theorem switchStep_inputs (v : Code) : (switchStep v s).inputs = s.inputs := by
  unfold switchStep; split <;> simp
@[simp] theorem setSwS_draws (v : Code) : (s.setSwS v).draws = s.draws := by
  unfold State.setSwS; split <;> rfl
@[simp] theorem switchStep_draws (v : Code) : (switchStep v s).draws = s.draws := by
  unfold switchStep; split <;> simp

@[simp] theorem setPins_cfg (v : Code) : (s.setPins v).cfg = s.cfg := by
  unfold State.setPins; split <;> rfl
@[simp] theorem setPins_phase (v : Code) : (s.setPins v).phase = s.phase := by
  unfold State.setPins; split <;> rfl
@[simp] theorem setPins_wrap (v : Code) : (s.setPins v).wrap = s.wrap := by
  unfold State.setPins; split <;> rfl
@[simp] theorem setPins_ptCfg (v : Code) : (s.setPins v).ptCfg = s.ptCfg := by
  unfold State.setPins; split <;> rfl
@[simp] theorem setPins_ptRun (v : Code) : (s.setPins v).ptRun = s.ptRun := by
  unfold State.setPins; split <;> rfl
@[simp] theorem setPins_ptPre (v : Code) : (s.setPins v).ptPre = s.ptPre := by
  unfold State.setPins; split <;> rfl
@[simp] theorem setPins_dutyBuf (v : Code) : (s.setPins v).dutyBuf = s.dutyBuf := by
  unfold State.setPins; split <;> rfl
@[simp] theorem setPins_dutyAct (v : Code) : (s.setPins v).dutyAct = s.dutyAct := by
  unfold State.setPins; split <;> rfl
@[simp] theorem setPins_carrier (v : Code) : (s.setPins v).carrier = s.carrier := by
  unfold State.setPins; split <;> rfl
@[simp] theorem setPins_pwmCfg (v : Code) : (s.setPins v).pwmCfg = s.pwmCfg := by
  unfold State.setPins; split <;> rfl
@[simp] theorem setPins_pwmRun (v : Code) : (s.setPins v).pwmRun = s.pwmRun := by
  unfold State.setPins; split <;> rfl
@[simp] theorem setPins_pwmPre (v : Code) : (s.setPins v).pwmPre = s.pwmPre := by
  unfold State.setPins; split <;> rfl
@[simp] theorem setPins_rsp (v : Code) : (s.setPins v).rsp = s.rsp := by
  unfold State.setPins; split <;> rfl
@[simp] theorem setPins_rspValid (v : Code) : (s.setPins v).rspValid = s.rspValid := by
  unfold State.setPins; split <;> rfl
@[simp] theorem setPins_sync (v : Code) : (s.setPins v).sync = s.sync := by
  unfold State.setPins; split <;> rfl
@[simp] theorem setPins_faults (v : Code) : (s.setPins v).faults = s.faults := by
  unfold State.setPins; split <;> rfl
@[simp] theorem setPins_cmdIndex (v : Code) : (s.setPins v).cmdIndex = s.cmdIndex := by
  unfold State.setPins; split <;> rfl
@[simp] theorem setPins_inputs (v : Code) : (s.setPins v).inputs = s.inputs := by
  unfold State.setPins; split <;> rfl
@[simp] theorem setPins_draws (v : Code) : (s.setPins v).draws = s.draws := by
  unfold State.setPins; split <;> rfl

end Sys2Proof.Machine
end

