-- ==== Sys2Proof/Laws/Exec.lean ====
section
/-! SUPPORT. What the shared operations and the commands can do, said once: a raised fault records and
changes nothing else, every command answers a next state, and every input of a well-formed machine is
performed. -/

namespace Sys2Proof.Machine

/-- Everything a raised fault does (R243). -/
theorem raise_next {k : Fault} {w : CmdWord} {s t : State} (h : raise k w s = .next t) :
    t = { s with faults := s.faults ++ [⟨k, s.cmdIndex, w⟩] } := by
  simpa [raise] using h.symm

/-- Everything the selector's gate does (R74). -/
theorem withSelector_next {s t u : State} {w : CmdWord} (h : s.withSelector w t = .next u) :
    (s.cfg.variant = .two ∧ u = t) ∨
      (s.cfg.variant = .one ∧
        u = { s with faults := s.faults ++ [⟨.illegalCommand, s.cmdIndex, w⟩] }) := by
  unfold State.withSelector at h
  split at h
  · exact .inr ⟨‹_›, raise_next h⟩
  · exact .inl ⟨‹_›, by simpa using h.symm⟩

/-- The effect of a command that raises no fault (R100 to R104, R130 to R133, R163, R192 to R195,
R220), as one function of the state. -/
def effectOf (i : Instr) (s : State) : State :=
  match i with
  | .nop => s.noResponse
  | .ptConfig => (s.setPtCfg true).noResponse
  | .ptSetWrap ticks => (s.setWrap ticks).noResponse
  | .ptStart => if s.ptRun = false then (s.setPtRun true).clearPtPre.noResponse else s.noResponse
  | .ptStop => if s.ptRun = true then (s.setPtRun false).drawPhase.noResponse else s.noResponse
  | .ptReadPhase => s.respond s.phase
  | .pwmConfig => (s.setPwmCfg true).noResponse
  | .pwmSetDuty value => (s.setDutyBuf value).noResponse
  | .pwmStart => if s.pwmRun = false then (s.setPwmRun true).beginCarrier.noResponse else s.noResponse
  | .pwmStop => (s.setPwmRun false).noResponse
  | .synStep => (s.setDutyBuf s.sample).noResponse
  | .selRead => s.respond (zext16 s.switchCode)
  | .selLookup code => s.respond (s.periodOf code)
  | .selApply code => (s.setWrap (s.periodOf code)).noResponse
  | .selApplySw => (s.setWrap (s.periodOf s.switchCode)).respond (zext16 s.switchCode)

/-- The fault a command raises in a state, in R244's priority. -/
def commandFault (i : Instr) (s : State) : Option Fault :=
  match i with
  | .nop => none
  | .ptConfig => none
  | .ptSetWrap ticks => if ticks = 0 then some .wrapZero else none
  | .ptStart =>
    if s.ptCfg = false then some .unconfigured else if s.wrap = 0 then some .wrapZero else none
  | .ptStop => none
  | .ptReadPhase => none
  | .pwmConfig => none
  | .pwmSetDuty _ => none
  | .pwmStart => if s.pwmCfg = false then some .unconfigured else none
  | .pwmStop => none
  | .synStep => if s.wrap = 0 then some .wrapZero else none
  | .selRead => if s.cfg.variant = .one then some .illegalCommand else none
  | .selLookup _ => if s.cfg.variant = .one then some .illegalCommand else none
  | .selApply _ => if s.cfg.variant = .one then some .illegalCommand else none
  | .selApplySw => if s.cfg.variant = .one then some .illegalCommand else none

/-- A command either raises its fault, which only records, or has its effect. -/
theorem exec_eq (i : Instr) (s : State) :
    exec i s = match commandFault i s with
      | some k => raise k (encode i) s
      | none => .next (effectOf i s) := by
  have hv : s.cfg.variant = .one ∨ s.cfg.variant = .two := by
    cases s.cfg.variant <;> simp
  cases i <;> simp only [exec, commandFault, effectOf, execNop, execPtConfig, execPtSetWrap,
    execPtStart, execPtStop, execPtReadPhase, execPwmConfig, execPwmSetDuty, execPwmStart,
    execPwmStop, execSynStep, execSelRead, execSelLookup, execSelApply, execSelApplySw,
    State.withSelector]
  case ptSetWrap => split <;> rfl
  case ptStart => split <;> [rfl; (split <;> [rfl; (split <;> rfl)])]
  case ptStop => split <;> rfl
  case pwmStart => split <;> [rfl; (split <;> rfl)]
  case synStep => split <;> rfl
  all_goals rcases hv with h | h <;> simp [h]

/-- Inversion: what a command's next state can be. -/
theorem exec_cases {i : Instr} {s t : State} (h : exec i s = .next t) :
    (∃ k, commandFault i s = some k ∧
      t = { s with faults := s.faults ++ [⟨k, s.cmdIndex, encode i⟩] }) ∨
    (commandFault i s = none ∧ t = effectOf i s) := by
  rw [exec_eq] at h
  cases hf : commandFault i s with
  | some k => rw [hf] at h; exact .inl ⟨k, rfl, raise_next h⟩
  | none => rw [hf] at h; exact .inr ⟨rfl, by simpa using h.symm⟩

/-- Every command answers a next state. -/
theorem exec_next (i : Instr) (s : State) : ∃ t, exec i s = .next t := by
  rw [exec_eq]
  cases commandFault i s with
  | some k => exact ⟨_, rfl⟩
  | none => exact ⟨_, rfl⟩

/-- Every command word answers a next state (R223). -/
theorem hostStep_next (w : CmdWord) (s : State) : ∃ t, hostStep w s = .next t := by
  unfold hostStep
  cases decode s.cfg.variant w with
  | cmd i => exact exec_next i _
  | illegal _ => exact ⟨_, rfl⟩

/-- Inversion of a Host step: a recorded fault or the command's effect (R223). -/
theorem hostStep_cases {w : CmdWord} {s t : State} (h : hostStep w s = .next t) :
    (∃ k, t = { s.accept with faults := s.faults ++ [⟨k, s.cmdIndex + 1, w⟩] }) ∨
    (∃ i, decode s.cfg.variant w = .cmd i ∧ exec i s.accept = .next t) := by
  unfold hostStep at h
  cases hd : decode s.cfg.variant w with
  | cmd i => rw [hd] at h; exact .inr ⟨i, rfl, h⟩
  | illegal _ => rw [hd] at h; exact .inl ⟨_, raise_next h⟩

/-- Every command of an edge answers a next state. -/
theorem edgeCommand_next (cmd : Option CmdWord) (s : State) : ∃ t, edgeCommand cmd s = .next t := by
  cases cmd with
  | none => exact ⟨_, rfl⟩
  | some w => exact hostStep_next w s

/-- Inversion of a clock edge (R270, R282). -/
theorem clockEdge_cases {rst : Bool} {cmd : Option CmdWord} {sw : Code} {s t : State}
    (h : clockEdge rst cmd sw s = .next t) :
    (rst = true ∧ t = resetCore (s.setPins sw)) ∨
    (rst = false ∧ ∃ c, edgeCommand cmd (s.setPins sw).noResponse = .next c ∧
      t = clocked (s.setPins sw) c) := by
  unfold clockEdge at h
  cases rst with
  | true => exact .inl ⟨rfl, by simpa using h.symm⟩
  | false =>
    obtain ⟨c, hc⟩ := edgeCommand_next cmd (s.setPins sw).noResponse
    rw [hc] at h
    exact .inr ⟨rfl, c, hc, by simpa using h.symm⟩

/-- Every input is performed: the machine stops on none. -/
theorem perform_next (i : Input) (s : State) : ∃ t, perform i s = .next t := by
  cases i with
  | command w => exact hostStep_next w s
  | hw h => exact ⟨_, rfl⟩
  | reset => exact ⟨_, rfl⟩
  | edge rst cmd sw =>
    cases rst with
    | true => exact ⟨_, rfl⟩
    | false =>
      obtain ⟨c, hc⟩ := edgeCommand_next cmd (s.setPins sw).noResponse
      exact ⟨clocked (s.setPins sw) c, by simp [perform, clockEdge, hc]⟩

/-- Inversion of a step: a well-formed configuration, and a free agent's step or the next input. -/
theorem step_cases {s t : State} (h : step s = .next t) :
    s.cfg.wf = true ∧
      ((s.inputs = [] ∧ t = freeStep s) ∨
        (∃ i rest, s.inputs = i :: rest ∧ perform i (s.schedule rest) = .next t)) := by
  unfold step at h
  split at h
  · refine ⟨‹_›, ?_⟩
    unfold advance at h
    split at h
    · exact .inl ⟨‹_›, by simpa using h.symm⟩
    · exact .inr ⟨_, _, ‹_›, h⟩
  · simp at h

end Sys2Proof.Machine
end

