-- ==== Sys2Proof/Laws/Agents.lean ====
section
/-! SUPPORT. The hardware agents' steps, field by field (spec/40_phase_accumulator.md R105, R106;
spec/41_pwm_duty_register.md R134; spec/43_frequency_selector_mux.md R196), the synchroniser's length
(spec/10_state.md R33), and what the pins' level does not touch at a clock edge. -/

namespace Sys2Proof.Machine

variable (s : State)

@[simp] theorem tickStep_phase : (tickStep s).phase =
    if s.ptRun = true then nextPhase s.cfg.wrapCompare s.wrap s.phase else s.phase := by
  unfold tickStep; split <;> rfl

@[simp] theorem carrierStep_carrier : (carrierStep s).carrier =
    if s.pwmRun = true then s.carrier + 1 else s.carrier := by
  unfold carrierStep
  split
  · split
    · rename_i h; rw [h]; rfl
    · rfl
  · rfl

@[simp] theorem carrierStep_dutyAct : (carrierStep s).dutyAct =
    if s.pwmRun = true ∧ s.carrier = 255 then s.dutyBuf else s.dutyAct := by
  unfold carrierStep
  split
  · split <;> simp_all
  · simp_all

@[simp] theorem setSwS_swS (v : Code) : (s.setSwS v).swS = v := by
  unfold State.setSwS
  split <;> simp [State.swS, *]

@[simp] theorem setSwS_sync_length (v : Code) : (s.setSwS v).sync.length = s.sync.length := by
  unfold State.setSwS
  split <;> simp [*]

@[simp] theorem switchStep_sync_length (v : Code) : (switchStep v s).sync.length = s.sync.length := by
  unfold switchStep
  split <;> simp

@[simp] theorem shiftSync_length (v : Code) (l : List Code) : (shiftSync v l).length = l.length := by
  simp [shiftSync]

@[simp] theorem tickDue_setPins (v : Code) : tickDue (s.setPins v) = tickDue s := by simp [tickDue]

@[simp] theorem carrierDue_setPins (v : Code) : carrierDue (s.setPins v) = carrierDue s := by
  simp [carrierDue]

@[simp] theorem nextPtPre_setPins (v : Code) : nextPtPre (s.setPins v) = nextPtPre s := by
  simp [nextPtPre]

@[simp] theorem nextPwmPre_setPins (v : Code) : nextPwmPre (s.setPins v) = nextPwmPre s := by
  simp [nextPwmPre]

/-- A prescaler counter fits the width spec/10_state.md section 1 gives it, so PT_PRE and PWM_PRE are
held as counts (R25, R31; log 10). -/
theorem prescalerWidth_fits {n p : Nat} (h : n < p) : n < 2 ^ prescalerWidth p :=
  h.trans_le ((Nat.le_pow_clog (by norm_num) p).trans
    (Nat.pow_le_pow_right (by norm_num) (le_max_right _ _)))

/-- A tick below the period stays below it, for both compares (R107). -/
theorem nextPhase_below (c : WrapCompare) (W p : Word16) (h : p.toNat < W.toNat) :
    (nextPhase c W p).toNat = (p.toNat + 1) % W.toNat := by
  have := W.isLt
  cases c <;> simp only [nextPhase]
  · split
    · have : p.toNat + 1 = W.toNat := by omega
      simp [this]
    · rw [Nat.mod_eq_of_lt (by omega)]; simp; omega
  · split
    · rename_i h; simp [h]
    · rw [Nat.mod_eq_of_lt (by omega)]; simp; omega

/-- A tick gives 0 or the next number (R105, R106). -/
theorem nextPhase_cases (c : WrapCompare) (W p : Word16) :
    nextPhase c W p = 0 ∨ nextPhase c W p = p + 1 := by
  cases c <;> simp only [nextPhase] <;> split <;> simp

/-- What a command leaves of PHASE: PT_STOP draws it, every other command keeps it (R20). -/
theorem exec_phase {i : Instr} {s t : State} (h : exec i s = .next t) :
    t.phase = s.phase ∨ (i = .ptStop ∧ s.ptRun = true ∧ t.ptRun = false) := by
  rcases exec_cases h with ⟨k, -, rfl⟩ | ⟨-, rfl⟩
  · exact .inl rfl
  · cases i <;> simp only [effectOf] <;> (try split) <;> simp_all

/-- What a command word leaves of PHASE. -/
theorem hostStep_phase {w : CmdWord} {s t : State} (h : hostStep w s = .next t) :
    t.phase = s.phase ∨ (s.ptRun = true ∧ t.ptRun = false) := by
  rcases hostStep_cases h with ⟨k, rfl⟩ | ⟨i, -, he⟩
  · exact .inl rfl
  · exact (exec_phase he).imp id And.right

/-- What a command leaves of DUTY_ACT: PWM_START of a stopped carrier loads it (R27, R132). -/
theorem exec_dutyAct {i : Instr} {s t : State} (h : exec i s = .next t) :
    t.dutyAct = s.dutyAct ∨
      (t.dutyAct = s.dutyBuf ∧ t.carrier = 0 ∧ s.pwmRun = false ∧ t.pwmRun = true) := by
  rcases exec_cases h with ⟨k, -, rfl⟩ | ⟨-, rfl⟩
  · exact .inl rfl
  · cases i <;> simp only [effectOf] <;> (try split) <;> simp_all

/-- What a command leaves of PT_PRE: a PT_START that takes effect clears it (R25, R102). -/
theorem exec_ptPre {i : Instr} {s t : State} (h : exec i s = .next t) :
    t.ptPre = if i = .ptStart ∧ s.ptCfg = true ∧ s.wrap ≠ 0 ∧ s.ptRun = false then 0 else s.ptPre := by
  rcases exec_cases h with ⟨k, hk, rfl⟩ | ⟨hk, rfl⟩
  · cases i <;> simp_all [commandFault]
    split at hk <;> simp_all
  · have hf : i = .ptStart → s.ptCfg = true ∧ s.wrap ≠ 0 := by
      rintro rfl
      simp only [commandFault] at hk
      split at hk <;> [simp at hk; (split at hk <;> simp_all)]
    cases i <;> simp only [effectOf] <;> (try split) <;> simp_all

/-- What a command leaves of PWM_PRE: a PWM_START that takes effect clears it (R31, R132). -/
theorem exec_pwmPre {i : Instr} {s t : State} (h : exec i s = .next t) :
    t.pwmPre = if i = .pwmStart ∧ s.pwmCfg = true ∧ s.pwmRun = false then 0 else s.pwmPre := by
  rcases exec_cases h with ⟨k, hk, rfl⟩ | ⟨hk, rfl⟩
  · cases i <;> simp_all [commandFault]
  · cases i <;> simp only [effectOf] <;> (try split) <;> simp_all [commandFault]

/-- Every command keeps the parameters, the switch inputs and the schedule (R35, R36). -/
theorem exec_keeps {i : Instr} {s t : State} (h : exec i s = .next t) :
    t.cfg = s.cfg ∧ t.sw = s.sw ∧ t.sync = s.sync ∧ t.inputs = s.inputs ∧ t.cmdIndex = s.cmdIndex := by
  rcases exec_cases h with ⟨k, -, rfl⟩ | ⟨-, rfl⟩
  · simp
  · cases i <;> simp only [effectOf] <;> (try split) <;> simp

end Sys2Proof.Machine
end

