-- ==== Sys2Proof/Laws/Decode.lean ====
section
/-! SUPPORT. The fields of a command word as numbers (spec/30_encoding.md R70), the fields of an
assembled word, and what each data form reads (R71). -/

namespace Sys2Proof

theorem opField_toNat (w : CmdWord) : (opField w).toNat = w.toNat / 2 ^ 20 := by
  have := w.isLt
  simp only [opField, BitVec.extractLsb'_toNat, Nat.shiftRight_eq_div_pow]
  omega

theorem zField_toNat (w : CmdWord) : (zField w).toNat = w.toNat / 2 ^ 16 % 2 ^ 4 := by
  simp only [zField, BitVec.extractLsb'_toNat, Nat.shiftRight_eq_div_pow]

theorem dataField_toNat (w : CmdWord) : (dataField w).toNat = w.toNat % 2 ^ 16 := by
  simp [dataField, BitVec.extractLsb'_toNat]

/-- Word value = op * 0x100000 + z * 0x10000 + data with z = 0 (R70). -/
theorem assembleWord_toNat (op : BitVec 4) (d : Word16) :
    (assembleWord op d).toNat = op.toNat * 0x100000 + d.toNat := by
  have hd := d.isLt
  have h1 : (0#4 ++ d).toNat = d.toNat := by
    rw [BitVec.toNat_append]; simp
  rw [assembleWord, BitVec.toNat_append, h1,
    ← Nat.shiftLeft_add_eq_or_of_lt (by omega : d.toNat < 2 ^ (4 + 16)), Nat.shiftLeft_eq]

/-- A word with z = 0 is assembled from its opcode and data fields (R70). -/
theorem assembleWord_fields (w : CmdWord) (h : zField w = 0) :
    assembleWord (opField w) (dataField w) = w := by
  have hz := congrArg BitVec.toNat h
  rw [zField_toNat] at hz
  apply BitVec.eq_of_toNat_eq
  rw [assembleWord_toNat, opField_toNat, dataField_toNat]
  have := w.isLt
  simp only [BitVec.ofNat_eq_ofNat, BitVec.toNat_ofNat] at hz
  omega

@[simp] theorem opField_assembleWord (op : BitVec 4) (d : Word16) :
    opField (assembleWord op d) = op := by
  apply BitVec.eq_of_toNat_eq
  rw [opField_toNat, assembleWord_toNat]
  have := d.isLt
  omega

@[simp] theorem zField_assembleWord (op : BitVec 4) (d : Word16) :
    zField (assembleWord op d) = 0 := by
  apply BitVec.eq_of_toNat_eq
  rw [zField_toNat, assembleWord_toNat]
  have := d.isLt
  simp only [BitVec.ofNat_eq_ofNat, BitVec.toNat_ofNat]
  omega

@[simp] theorem dataField_assembleWord (op : BitVec 4) (d : Word16) :
    dataField (assembleWord op d) = d := by
  apply BitVec.eq_of_toNat_eq
  rw [dataField_toNat, assembleWord_toNat]
  have := d.isLt
  omega

/-- Form Z decodes only with all data bits zero (R71). -/
theorem formZ_cmd {data : Word16} {i j : Instr} (h : formZ data i = .cmd j) : data = 0 ∧ j = i := by
  unfold formZ at h
  split at h
  · exact ⟨‹_›, by simpa using h.symm⟩
  · simp at h

/-- Form D8 decodes exactly the zero-extensions of 8-bit values (R71). -/
theorem formD8_cmd {data : Word16} {mk : Duty → Instr} {j : Instr} (h : formD8 data mk = .cmd j) :
    ∃ v : Duty, data = v.setWidth 16 ∧ j = mk v := by
  unfold formD8 at h
  split at h
  · rename_i hz
    refine ⟨data.extractLsb' 0 8, ?_, by simpa using h.symm⟩
    have hz' := congrArg BitVec.toNat hz
    have := data.isLt
    apply BitVec.eq_of_toNat_eq
    simp only [BitVec.extractLsb'_toNat, Nat.shiftRight_eq_div_pow, BitVec.ofNat_eq_ofNat,
      BitVec.toNat_ofNat, BitVec.toNat_setWidth] at hz' ⊢
    omega
  · simp at h

@[simp] theorem formD8_setWidth (v : Duty) (mk : Duty → Instr) :
    formD8 (v.setWidth 16) mk = .cmd (mk v) := by
  have h1 : (BitVec.setWidth 16 v).extractLsb' 8 8 = 0 := by
    apply BitVec.eq_of_toNat_eq
    have := v.isLt
    simp only [BitVec.extractLsb'_toNat, Nat.shiftRight_eq_div_pow, BitVec.ofNat_eq_ofNat,
      BitVec.toNat_ofNat, BitVec.toNat_setWidth]
    omega
  have h2 : (BitVec.setWidth 16 v).extractLsb' 0 8 = v := by
    apply BitVec.eq_of_toNat_eq
    have := v.isLt
    simp only [BitVec.extractLsb'_toNat, Nat.shiftRight_eq_div_pow, BitVec.toNat_setWidth]
    omega
  unfold formD8
  rw [if_pos h1, h2]

/-- Form C3 decodes exactly the zero-extensions of 3-bit codes (R71). -/
theorem formC3_cmd {data : Word16} {mk : Code → Instr} {j : Instr} (h : formC3 data mk = .cmd j) :
    ∃ v : Code, data = zext16 v ∧ j = mk v := by
  unfold formC3 at h
  split at h
  · rename_i hz
    refine ⟨data.extractLsb' 0 3, ?_, by simpa using h.symm⟩
    have hz' := congrArg BitVec.toNat hz
    have := data.isLt
    apply BitVec.eq_of_toNat_eq
    simp only [zext16, BitVec.extractLsb'_toNat, Nat.shiftRight_eq_div_pow, BitVec.ofNat_eq_ofNat,
      BitVec.toNat_ofNat, BitVec.toNat_setWidth] at hz' ⊢
    omega
  · simp at h

@[simp] theorem formC3_zext16 (v : Code) (mk : Code → Instr) :
    formC3 (zext16 v) mk = .cmd (mk v) := by
  have h1 : (zext16 v).extractLsb' 3 13 = 0 := by
    apply BitVec.eq_of_toNat_eq
    have := v.isLt
    simp only [zext16, BitVec.extractLsb'_toNat, Nat.shiftRight_eq_div_pow, BitVec.ofNat_eq_ofNat,
      BitVec.toNat_ofNat, BitVec.toNat_setWidth]
    omega
  have h2 : (zext16 v).extractLsb' 0 3 = v := by
    apply BitVec.eq_of_toNat_eq
    have := v.isLt
    simp only [zext16, BitVec.extractLsb'_toNat, Nat.shiftRight_eq_div_pow, BitVec.toNat_setWidth]
    omega
  unfold formC3
  rw [if_pos h1, h2]

end Sys2Proof
end

