-- ==== Sys2Proof/Laws/PerInstr.lean ====
section
/-! SUPPORT. The family Encoding: the three fields of every command's word (spec/30_encoding.md R70,
R71, R73). One lemma per constructor. -/

namespace Sys2Proof.Laws.Encoding

/-- The word of a command has the command's opcode, a zero z field, and its operand as data. -/
def Statement (i : Instr) : Prop :=
  opField (encode i) = opcodeOf i ∧ zField (encode i) = 0 ∧ dataField (encode i) = operandData i

/-- The fields of any assembled word. -/
theorem fields (i : Instr) : Statement i := by simp [Statement, encode]

theorem nop : Statement .nop := fields _
theorem ptConfig : Statement .ptConfig := fields _
theorem ptSetWrap (ticks : Word16) : Statement (.ptSetWrap ticks) := fields _
theorem ptStart : Statement .ptStart := fields _
theorem ptStop : Statement .ptStop := fields _
theorem ptReadPhase : Statement .ptReadPhase := fields _
theorem pwmConfig : Statement .pwmConfig := fields _
theorem pwmSetDuty (value : Duty) : Statement (.pwmSetDuty value) := fields _
theorem pwmStart : Statement .pwmStart := fields _
theorem pwmStop : Statement .pwmStop := fields _
theorem synStep : Statement .synStep := fields _
theorem selRead : Statement .selRead := fields _
theorem selLookup (code : Code) : Statement (.selLookup code) := fields _
theorem selApply (code : Code) : Statement (.selApply code) := fields _
theorem selApplySw : Statement .selApplySw := fields _

end Sys2Proof.Laws.Encoding
end

