-- ==== Sys2Proof/Laws/Runs.lean ====
section
/-! SUPPORT. Inputs performed one after the other; what every input keeps: the parameters, the schedule,
and the faults recorded before it (spec/10_state.md R35, R38); that no input depends on what is scheduled
behind it; and the length of a run (spec/44_host_sequences.md R228). -/

namespace Sys2Proof.Machine

/-- Performing two lists of inputs is performing the second where the first ended. -/
theorem performAll_append {a b : List Input} {s u : State} (h : performAll a s = .next u) :
    performAll (a ++ b) s = performAll b u := by
  induction a generalizing s with
  | nil => simp only [performAll, Host.Outcome.next.injEq] at h; subst h; rfl
  | cons i rest ih =>
    obtain ⟨t, ht⟩ := perform_next i s
    simp only [performAll, List.cons_append, ht] at h ⊢
    exact ih h

/-- A command keeps every fault recorded before it and records at most one. -/
theorem exec_faults {i : Instr} {s t : State} (h : exec i s = .next t) :
    ∃ new, t.faults = s.faults ++ new ∧ new.length ≤ 1 := by
  rcases exec_cases h with ⟨k, -, rfl⟩ | ⟨-, rfl⟩
  · exact ⟨_, rfl, le_rfl⟩
  · refine ⟨[], ?_, by simp⟩
    cases i <;> simp only [effectOf] <;> (try split) <;> simp

/-- What a command word keeps. -/
theorem hostStep_keeps {w : CmdWord} {s t : State} (h : hostStep w s = .next t) :
    t.cfg = s.cfg ∧ t.inputs = s.inputs ∧ ∃ new, t.faults = s.faults ++ new ∧ new.length ≤ 1 := by
  rcases hostStep_cases h with ⟨k, rfl⟩ | ⟨i, -, he⟩
  · exact ⟨rfl, rfl, _, rfl, le_rfl⟩
  · exact ⟨(exec_keeps he).1, (exec_keeps he).2.2.2.1, exec_faults (s := s.accept) he⟩

/-- A command word leaves the switch inputs and the stages (R33). -/
theorem edgeCommand_sync {cmd : Option CmdWord} {s t : State} (h : edgeCommand cmd s = .next t) :
    t.sw = s.sw ∧ t.sync = s.sync := by
  cases cmd with
  | none =>
    simp only [edgeCommand, Host.Outcome.next.injEq] at h
    subst h
    exact ⟨rfl, rfl⟩
  | some w =>
    rcases hostStep_cases h with ⟨k, rfl⟩ | ⟨i, -, he⟩
    · exact ⟨rfl, rfl⟩
    · exact ⟨(exec_keeps he).2.1, (exec_keeps he).2.2.1⟩

/-- Every clock edge with rst = 0 takes the pins' level and shifts the stages (R33, R282). -/
theorem clockEdge_sync {cmd : Option CmdWord} {v : Code} {s t : State}
    (h : clockEdge false cmd v s = .next t) :
    t.sw = (s.setPins v).sw ∧ t.sync = shiftSync (s.setPins v).sw s.sync := by
  rcases clockEdge_cases h with ⟨hr, -⟩ | ⟨-, c, hc, rfl⟩
  · cases hr
  · exact ⟨(edgeCommand_sync hc).1, by simp [clocked]⟩

/-- What an agent's step keeps. -/
theorem hwStep_keeps (h : HwStep) (s : State) :
    (hwStep h s).cfg = s.cfg ∧ (hwStep h s).inputs = s.inputs ∧ (hwStep h s).faults = s.faults := by
  cases h <;> simp [hwStep]

/-- What every input keeps. -/
theorem perform_keeps {i : Input} {s t : State} (h : perform i s = .next t) :
    t.cfg = s.cfg ∧ t.inputs = s.inputs ∧ ∃ new, t.faults = s.faults ++ new ∧ new.length ≤ 1 := by
  cases i with
  | command w => exact hostStep_keeps h
  | hw a =>
    simp only [perform, Host.Outcome.next.injEq] at h
    subst h
    exact ⟨(hwStep_keeps a s).1, (hwStep_keeps a s).2.1, [], by simp [hwStep_keeps a s], by simp⟩
  | reset =>
    simp only [perform, Host.Outcome.next.injEq] at h
    subst h
    exact ⟨rfl, rfl, [], by simp, by simp⟩
  | edge rst cmd sw =>
    rcases clockEdge_cases h with ⟨rfl, rfl⟩ | ⟨rfl, c, hc, rfl⟩
    · exact ⟨by simp, by simp, [], by simp, by simp⟩
    · cases cmd with
      | none =>
        simp only [edgeCommand, Host.Outcome.next.injEq] at hc
        subst hc
        exact ⟨by simp, by simp, [], by simp, by simp⟩
      | some w => simpa using hostStep_keeps hc

/-- What is scheduled does not touch a command's effect. -/
theorem effectOf_schedule (i : Instr) (s : State) (l : List Input) :
    effectOf i (s.schedule l) = (effectOf i s).schedule l := by
  cases hr : s.ptRun <;> cases hp : s.pwmRun <;> cases i <;>
    simp only [effectOf, State.schedule_ptRun, State.schedule_pwmRun, hr, hp] <;> rfl

/-- What is scheduled does not touch what a command does. -/
theorem exec_schedule {i : Instr} {s t : State} (l : List Input) (h : exec i s = .next t) :
    exec i (s.schedule l) = .next (t.schedule l) := by
  have hf : commandFault i (s.schedule l) = commandFault i s := by cases i <;> rfl
  rw [exec_eq, hf]
  rcases exec_cases h with ⟨k, hk, rfl⟩ | ⟨hk, rfl⟩ <;> simp only [hk]
  · rfl
  · rw [effectOf_schedule]

/-- What is scheduled does not touch an agent's step. -/
theorem hwStep_schedule (a : HwStep) (s : State) (l : List Input) :
    hwStep a (s.schedule l) = (hwStep a s).schedule l := by
  cases a with
  | tick => cases hr : s.ptRun <;> simp only [hwStep, tickStep, State.schedule_ptRun, hr] <;> rfl
  | carrier =>
    by_cases hc : s.carrier = 255 <;> cases hr : s.pwmRun <;>
      simp only [hwStep, carrierStep, State.schedule_pwmRun, State.schedule_carrier, hr, hc] <;> rfl
  | switches v =>
    cases hv : s.cfg.variant <;> cases hs : s.sync <;>
      simp only [hwStep, switchStep, State.schedule_cfg, State.setSwS, State.schedule_sync, hv, hs] <;>
      rfl

/-- What is scheduled does not touch the clocked updates of an edge. -/
theorem clocked_schedule (s c : State) (l m : List Input) :
    clocked (s.schedule l) (c.schedule m) = (clocked s c).schedule m := by
  simp [clocked, State.schedule, edgePhase, edgeCarrier, edgeDutyAct, edgePtPre, edgePwmPre, tickDue,
    carrierDue, nextPtPre, nextPwmPre]
  exact ⟨rfl, rfl⟩

/-- What is scheduled does not touch what a command word does. -/
theorem hostStep_schedule {w : CmdWord} {s t : State} (l : List Input) (h : hostStep w s = .next t) :
    hostStep w (s.schedule l) = .next (t.schedule l) := by
  unfold hostStep at h ⊢
  change (match decode s.cfg.variant w with
    | .illegal _ => _
    | .cmd i => _) = _
  cases hd : decode s.cfg.variant w with
  | illegal r => rw [hd] at h; have := raise_next h; subst this; rfl
  | cmd i => rw [hd] at h; exact exec_schedule l h

/-- What is scheduled does not touch what an input does. -/
theorem perform_schedule {i : Input} {s t : State} (l : List Input) (h : perform i s = .next t) :
    perform i (s.schedule l) = .next (t.schedule l) := by
  cases i with
  | command w => exact hostStep_schedule l h
  | hw a =>
    simp only [perform, Host.Outcome.next.injEq] at h ⊢
    subst h
    exact hwStep_schedule a s l
  | reset =>
    simp only [perform, Host.Outcome.next.injEq] at h ⊢
    subst h
    rfl
  | edge rst cmd sw =>
    have hp : (s.schedule l).setPins sw = (s.setPins sw).schedule l := by
      simp only [State.setPins, State.schedule]; split <;> rfl
    simp only [perform, clockEdge, hp] at h ⊢
    cases rst with
    | true =>
      simp only [if_true, Host.Outcome.next.injEq] at h ⊢
      subst h
      rfl
    | false =>
      obtain ⟨c, hc⟩ := edgeCommand_next cmd (s.setPins sw).noResponse
      have hc' : edgeCommand cmd ((s.setPins sw).schedule l).noResponse = .next (c.schedule l) := by
        cases cmd with
        | none =>
          simp only [edgeCommand, Host.Outcome.next.injEq] at hc ⊢
          subst hc
          rfl
        | some w => exact hostStep_schedule l hc
      simp only [hc, hc', Bool.false_eq_true, if_false, Host.Outcome.next.injEq] at h ⊢
      subst h
      exact clocked_schedule _ _ _ _

/-- A run takes no more steps than it has inputs. -/
theorem runLength_le (l : List Input) : runLength l ≤ l.length := by
  induction l with
  | nil => exact le_rfl
  | cons i rest ih =>
    unfold runLength
    split
    · simp
    · simpa using ih

/-- A run has no steps exactly when it has no command (R228). -/
theorem runLength_eq_zero (l : List Input) : runLength l = 0 ↔ NoCommandLeft l := by
  induction l with
  | nil => simp [runLength, NoCommandLeft]
  | cons i rest ih =>
    simp only [runLength, NoCommandLeft, List.all_cons, Bool.and_eq_true, Bool.not_eq_true'] at ih ⊢
    by_cases h : runLength rest = 0
    · cases hi : isCommand i <;> simp [h, ih.mp h]
    · cases isCommand i with
      | true => simp
      | false => simpa [h] using fun h' => h (ih.mpr h')

/-- Inputs behind the last command do not lengthen a run (R228). -/
theorem runLength_append (l : List Input) {more : List Input} (h : NoCommandLeft more) :
    runLength (l ++ more) = runLength l := by
  induction l with
  | nil => simpa [runLength] using (runLength_eq_zero more).mpr h
  | cons i rest ih => simp only [List.cons_append, runLength, ih]

/-- One step of a machine with something scheduled is what that input does. -/
theorem step_cons {s : State} {i : Input} {rest : List Input} (hw : s.cfg.wf = true)
    (hi : s.inputs = i :: rest) : step s = perform i (s.schedule rest) := by
  rw [step, if_pos hw, advance, hi]

end Sys2Proof.Machine
end

