-- ==== Sys2Proof/Laws/Sine.lean ====
section
/-! SUPPORT. The table of Machine/Sine.lean realises floor(v), ceil(v) and floor(v + 1/2) without error
(spec/42_sine_lut_pwm_mapper.md R160 to R162, R167). For each threshold T the file names its lower
Farey neighbour L among the fractions with denominators up to 131070; exact integer arithmetic on a
Taylor sum with an error bound shows sin(2 pi L) < i / 255 < sin(2 pi T). -/

namespace Sys2Proof.Laws.Sine

open Real Finset

/-- lower neighbours 1 to 32 -/
def sineL0 : List (Nat × Nat) :=
  [(24, 38453), (51, 40856), (154, 82245), (300, 120161), (365, 116954), (93, 24832),
   (545, 124728), (316, 63277), (523, 93087), (705, 112927), (172, 25045), (506, 67535),
   (790, 97323), (927, 106036), (602, 64265), (1283, 128393), (877, 82594), (466, 41445),
   (631, 53161), (1094, 87551), (616, 46945), (1751, 127363), (517, 35966), (553, 36863),
   (2006, 128355), (1367, 84093), (761, 45074), (1465, 83661), (240, 13231), (2396, 127667),
   (1409, 72643), (843, 42097)]

/-- lower neighbours 33 to 64 -/
def sineL1 : List (Nat × Nat) :=
  [(1845, 89327), (2493, 117130), (2395, 109291), (1019, 45200), (2910, 125567), (1865, 78342),
   (3005, 122968), (336, 13403), (745, 28987), (3203, 121631), (3397, 125970), (1105, 40036),
   (2092, 74095), (3403, 117880), (2897, 98193), (2790, 92573), (3680, 119581), (2932, 93345),
   (3347, 104440), (967, 29586), (1892, 56779), (3608, 106241), (1309, 37833), (4429, 125685),
   (4257, 118649), (4603, 126042), (4003, 107721), (4526, 119727), (1985, 51632), (2749, 70328),
   (4567, 114945), (296, 7331)]

/-- lower neighbours 65 to 96 -/
def sineL2 : List (Nat × Nat) :=
  [(4841, 118011), (2350, 56399), (3819, 90254), (2756, 64151), (942, 21601), (4073, 92029),
   (869, 19351), (5473, 120134), (4126, 89291), (1441, 30751), (1513, 31844), (1601, 33239),
   (4603, 94284), (1156, 23365), (4815, 96047), (3977, 78305), (281, 5462), (6776, 130045),
   (6657, 126164), (4365, 81703), (2103, 38882), (5843, 106723), (6572, 118601), (3273, 58366),
   (871, 15350), (2297, 40011), (2530, 43563), (7482, 127363), (5192, 87385), (7049, 117315),
   (7388, 121597), (5701, 92803)]

/-- lower neighbours 97 to 128 -/
def sineL3 : List (Nat × Nat) :=
  [(1161, 18694), (2067, 32924), (3508, 55281), (6620, 103219), (2592, 39991), (8213, 125399),
   (4969, 75087), (8160, 122047), (421, 6233), (7024, 102947), (8866, 128649), (8215, 118024),
   (9078, 129143), (8361, 117785), (8032, 112057), (7459, 103065), (379, 5187), (5053, 68502),
   (2391, 32110), (6727, 89499), (6687, 88144), (3083, 40265), (8911, 115319), (10207, 130894),
   (7764, 98669), (10153, 127876), (8242, 102885), (9106, 112667), (10204, 125145),
   (3113, 37846), (4493, 54150), (2147, 25653)]

/-- lower neighbours 129 to 160 -/
def sineL4 : List (Nat × Nat) :=
  [(8917, 105631), (10876, 127741), (1361, 15850), (6109, 70546), (4957, 56764), (10873, 123474),
   (3419, 38505), (8637, 96470), (6093, 67498), (5469, 60092), (8285, 90296), (9079, 98152),
   (12109, 129859), (7927, 84332), (6593, 69583), (5057, 52950), (2228, 23145), (11096, 114365),
   (11369, 116265), (10177, 103267), (7472, 75233), (12659, 126478), (4600, 45607),
   (9173, 90252), (3751, 36625), (8858, 85835), (7047, 67771), (10433, 99580), (8313, 78751),
   (7306, 68695), (10441, 97442), (5826, 53969)]

/-- lower neighbours 161 to 192 -/
def sineL5 : List (Nat × Nat) :=
  [(8987, 82636), (7325, 66858), (8825, 79958), (11732, 105519), (7499, 66955), (3563, 31581),
   (12792, 112561), (14230, 124309), (3923, 34023), (11032, 94989), (10065, 86041),
   (7783, 66057), (14215, 119786), (14901, 124672), (8213, 68227), (15126, 124763),
   (13080, 107123), (12309, 100096), (4440, 35851), (9682, 77627), (15695, 124952),
   (16015, 126604), (10665, 83719), (6606, 51493), (5869, 45428), (10061, 77331), (5067, 38674),
   (11962, 90663), (14497, 109110), (16351, 122206), (8207, 60911), (17745, 130783)]

/-- lower neighbours 193 to 224 -/
def sineL6 : List (Nat × Nat) :=
  [(10756, 78721), (16003, 116307), (11197, 80811), (15235, 109188), (5711, 40645),
   (2480, 17527), (5049, 35434), (12166, 84785), (14629, 101237), (10762, 73955),
   (14771, 100793), (8569, 58062), (19267, 129632), (15279, 102076), (17399, 115419),
   (2790, 18377), (10153, 66401), (16884, 109637), (12919, 83292), (5619, 35968), (1143, 7264),
   (14507, 91531), (20548, 128709), (12645, 78631), (13127, 81033), (10996, 67381),
   (8397, 51076), (4759, 28733), (21640, 129681), (21532, 128067), (16333, 96412),
   (16536, 96869)]

/-- lower neighbours 225 to 254 -/
def sineL7 : List (Nat × Nat) :=
  [(12364, 71875), (8062, 46505), (18496, 105863), (20635, 117179), (8536, 48089),
   (20308, 113493), (15389, 85307), (17564, 96567), (21251, 115870), (7232, 39101),
   (7759, 41593), (1607, 8540), (22783, 120010), (21563, 112567), (521, 2695), (11377, 58302),
   (18480, 93799), (7509, 37741), (4553, 22654), (7537, 37113), (19911, 96994), (24994, 120401),
   (7037, 33505), (8345, 39248), (19331, 89742), (20728, 94895), (9161, 41308), (13137, 58241),
   (29996, 130387), (28656, 121475)]

/-- L for i = 1, ..., 254 in order: the greatest fraction below T with denominator at most 131070. -/
def sineLowers : List (Nat × Nat) :=
  sineL0 ++ sineL1 ++ sineL2 ++ sineL3 ++ sineL4 ++ sineL5 ++ sineL6 ++ sineL7

/-- 24! times v^24 times the Taylor sum of the sine at u / v, its first k terms. -/
def taylorNum : Nat → Int → Int → Int
  | 0, _, _ => 0
  | k + 1, u, v => taylorNum k u v
      + (-1) ^ k * ((Nat.factorial 24 / Nat.factorial (2 * k + 1) : Nat) : Int)
        * u ^ (2 * k + 1) * v ^ (23 - 2 * k)

/-- An integer certificate of sin(u / v) < i / 255. -/
def sineBelow (i u v : Int) : Bool :=
  255 * (taylorNum 12 u v + 2 * u ^ 24) < i * (Nat.factorial 24 : Nat) * v ^ 24

/-- An integer certificate of i / 255 < sin(u / v). -/
def sineAbove (i u v : Int) : Bool :=
  i * (Nat.factorial 24 : Nat) * v ^ 24 < 255 * (taylorNum 12 u v - 2 * u ^ 24)

/-- Twice 10^20 pi, from below and from above. -/
def twoPiLo : Nat := 2 * 314159265358979323846
def twoPiHi : Nat := 2 * 314159265358979323847

/-- The certificate of one threshold. -/
def rowOk (i : Nat) (l t : Nat × Nat) : Bool :=
  t.1 * l.2 == l.1 * t.2 + 1 && 131070 < l.2 + t.2 && 4 * t.1 < t.2 && 0 < l.2 && 100 * l.1 ≤ 24 * l.2
    && sineBelow i (twoPiHi * l.1 : Nat) (10 ^ 20 * l.2 : Nat)
    && sineAbove i (twoPiLo * t.1 : Nat) (10 ^ 20 * t.2 : Nat)

/-- The certificates of consecutive thresholds, the first with number i. -/
def rowsOk : Nat → List (Nat × Nat) → List (Nat × Nat) → Bool
  | _, [], [t] => t == (1, 4)
  | i, l :: ls, t :: ts => rowOk i l t && rowsOk (i + 1) ls ts
  | _, _, _ => false

theorem rowsOk_table : rowsOk 1 sineLowers sineThresholds = true := by decide +kernel

theorem sine_taylor (y : ℝ) (h0 : 0 ≤ y) (h2 : y ≤ 2) :
    |sin y - ∑ k ∈ range 12, (-1) ^ k * y ^ (2 * k + 1) / (Nat.factorial (2 * k + 1) : ℝ)|
      ≤ y ^ 24 / (Nat.factorial 24 : ℝ) * 2 := by
  have hn : ‖(y : ℂ) * Complex.I‖ = y := by simp [abs_of_nonneg h0]
  have hb := Complex.exp_bound' (x := (y : ℂ) * Complex.I) (n := 24) (by rw [hn]; norm_num; linarith)
  rw [hn] at hb
  have hsum : ∀ m : ℕ, (∑ j ∈ range (2 * m), ((y : ℂ) * Complex.I) ^ j / (Nat.factorial j : ℂ)).im
      = ∑ k ∈ range m, (-1) ^ k * y ^ (2 * k + 1) / (Nat.factorial (2 * k + 1) : ℝ) := by
    intro m
    induction m with
    | zero => simp
    | succ m ih =>
      have hsq : ((y : ℂ) * Complex.I) ^ (2 * m) = (((-1) ^ m * y ^ (2 * m) : ℝ) : ℂ) := by
        rw [mul_pow, pow_mul Complex.I, Complex.I_sq]; push_cast; ring
      rw [show 2 * (m + 1) = 2 * m + 1 + 1 by ring, sum_range_succ, sum_range_succ, sum_range_succ,
        Complex.add_im, Complex.add_im, ih, add_assoc]
      congr 1
      have e1 : ((y : ℂ) * Complex.I) ^ (2 * m) / (Nat.factorial (2 * m) : ℂ)
          = (((-1) ^ m * y ^ (2 * m) / (Nat.factorial (2 * m) : ℝ) : ℝ) : ℂ) := by
        rw [hsq]; push_cast; ring
      have e2 : ((y : ℂ) * Complex.I) ^ (2 * m + 1) / (Nat.factorial (2 * m + 1) : ℂ)
          = (((-1) ^ m * y ^ (2 * m + 1) / (Nat.factorial (2 * m + 1) : ℝ) : ℝ) : ℂ)
            * Complex.I := by
        rw [pow_succ, hsq]; push_cast; ring
      rw [e1, e2, Complex.ofReal_im, zero_add, Complex.im_ofReal_mul, Complex.I_im, mul_one]
  have him := (Complex.abs_im_le_norm _).trans hb
  rw [Complex.sub_im, show (24 : ℕ) = 2 * 12 by norm_num, hsum 12, Complex.exp_ofReal_mul_I_im] at him
  exact him

theorem taylorNum_cast (u v : ℤ) (hv : (v : ℝ) ≠ 0) : ∀ k : ℕ, k ≤ 12 →
    (taylorNum k u v : ℝ) = (Nat.factorial 24 : ℝ) * (v : ℝ) ^ 24
      * ∑ j ∈ range k, (-1) ^ j * ((u : ℝ) / v) ^ (2 * j + 1) / (Nat.factorial (2 * j + 1) : ℝ)
  | 0, _ => by simp [taylorNum]
  | k + 1, hk => by
    have hd : Nat.factorial (2 * k + 1) ∣ Nat.factorial 24 := Nat.factorial_dvd_factorial (by omega)
    have hf : (Nat.factorial (2 * k + 1) : ℝ) ≠ 0 := by positivity
    have hp : (v : ℝ) ^ 24 = (v : ℝ) ^ (23 - 2 * k) * (v : ℝ) ^ (2 * k + 1) := by
      rw [← pow_add]; congr 1; omega
    rw [sum_range_succ, mul_add, ← taylorNum_cast u v hv k (by omega)]
    simp only [taylorNum, Int.cast_add, Int.cast_mul, Int.cast_pow, Int.cast_neg, Int.cast_one,
      Int.cast_natCast]
    rw [Nat.cast_div hd hf, hp, div_pow]
    field_simp

/-- The Taylor certificate's two inequalities, over the reals. -/
theorem sine_taylorNum (u v : ℤ) (hu : 0 ≤ u) (hv : 0 < v) (h2 : (u : ℝ) / v ≤ 2) :
    |(Nat.factorial 24 : ℝ) * (v : ℝ) ^ 24 * sin ((u : ℝ) / v) - taylorNum 12 u v|
      ≤ 2 * (u : ℝ) ^ 24 := by
  have hv' : (0 : ℝ) < v := by exact_mod_cast hv
  have hu' : (0 : ℝ) ≤ u := by exact_mod_cast hu
  have h := sine_taylor ((u : ℝ) / v) (by positivity) h2
  rw [taylorNum_cast u v hv'.ne' 12 le_rfl, ← mul_sub, abs_mul,
    abs_of_pos (show (0 : ℝ) < (Nat.factorial 24 : ℝ) * (v : ℝ) ^ 24 by positivity)]
  calc _ ≤ (Nat.factorial 24 : ℝ) * (v : ℝ) ^ 24 * (((u : ℝ) / v) ^ 24 / (Nat.factorial 24 : ℝ) * 2) := by
        gcongr
    _ = 2 * (u : ℝ) ^ 24 := by rw [div_pow]; field_simp

theorem sine_lt_of_below (i u v : ℤ) (hu : 0 ≤ u) (hv : 0 < v) (h2 : (u : ℝ) / v ≤ 2)
    (h : sineBelow i u v = true) : 255 * sin ((u : ℝ) / v) < i := by
  have hv' : (0 : ℝ) < v := by exact_mod_cast hv
  have hb := (abs_le.mp (sine_taylorNum u v hu hv h2)).2
  have hc : (255 : ℝ) * (taylorNum 12 u v + 2 * (u : ℝ) ^ 24)
      < i * (Nat.factorial 24 : ℝ) * (v : ℝ) ^ 24 := by
    exact_mod_cast of_decide_eq_true h
  have hpos : (0 : ℝ) < (Nat.factorial 24 : ℝ) * (v : ℝ) ^ 24 := by positivity
  refine lt_of_mul_lt_mul_left ?_ hpos.le
  generalize (Nat.factorial 24 : ℝ) = F at *
  generalize sin ((u : ℝ) / v) = S at *
  generalize (v : ℝ) ^ 24 = V at *
  nlinarith only [hb, hc]

theorem lt_sine_of_above (i u v : ℤ) (hu : 0 ≤ u) (hv : 0 < v) (h2 : (u : ℝ) / v ≤ 2)
    (h : sineAbove i u v = true) : (i : ℝ) < 255 * sin ((u : ℝ) / v) := by
  have hv' : (0 : ℝ) < v := by exact_mod_cast hv
  have hb := (abs_le.mp (sine_taylorNum u v hu hv h2)).1
  have hc : i * (Nat.factorial 24 : ℝ) * (v : ℝ) ^ 24
      < (255 : ℝ) * (taylorNum 12 u v - 2 * (u : ℝ) ^ 24) := by
    exact_mod_cast of_decide_eq_true h
  have hpos : (0 : ℝ) < (Nat.factorial 24 : ℝ) * (v : ℝ) ^ 24 := by positivity
  refine lt_of_mul_lt_mul_left ?_ hpos.le
  generalize (Nat.factorial 24 : ℝ) = F at *
  generalize sin ((u : ℝ) / v) = S at *
  generalize (v : ℝ) ^ 24 = V at *
  nlinarith only [hb, hc]

/-- sin is strictly increasing on the fractions of a quarter turn. -/
theorem quarter_mono {x y : ℝ} (h0 : 0 ≤ x) (hxy : x ≤ y) (hy : y ≤ 1 / 4) :
    sin (2 * π * x) ≤ sin (2 * π * y) := by
  have hp := pi_pos
  apply sin_le_sin_of_le_of_le_pi_div_two <;> nlinarith

/-- One certified row: sin(2 pi L) < i / 255 < sin(2 pi T). -/
theorem row_bounds (i : ℕ) (l t : ℕ × ℕ) (h : rowOk i l t = true) :
    255 * sin (2 * π * ((l.1 : ℝ) / l.2)) < i ∧ (i : ℝ) < 255 * sin (2 * π * ((t.1 : ℝ) / t.2)) := by
  simp only [rowOk, Bool.and_eq_true, beq_iff_eq, decide_eq_true_eq] at h
  obtain ⟨⟨⟨⟨⟨⟨hf, hN⟩, h4⟩, hl0⟩, hm⟩, hlo⟩, hhi⟩ := h
  have ht0 : 0 < t.2 := by omega
  have hl0' : (0 : ℝ) < l.2 := by exact_mod_cast hl0
  have ht0' : (0 : ℝ) < t.2 := by exact_mod_cast ht0
  have h4' : (4 : ℝ) * t.1 < t.2 := by exact_mod_cast h4
  have hT : (t.1 : ℝ) / t.2 ≤ 1 / 4 := by rw [div_le_div_iff₀ ht0' (by norm_num)]; linarith
  have hm' : (100 : ℝ) * l.1 ≤ 24 * l.2 := by exact_mod_cast hm
  have hL : (l.1 : ℝ) / l.2 ≤ 24 / 100 := by
    rw [div_le_div_iff₀ hl0' (by norm_num)]; linarith
  have pl := pi_gt_d20
  have ph := pi_lt_d20
  have hL0 : (0 : ℝ) ≤ (l.1 : ℝ) / l.2 := by positivity
  have hT0 : (0 : ℝ) ≤ (t.1 : ℝ) / t.2 := by positivity
  have eL : (((twoPiHi * l.1 : ℕ) : ℤ) : ℝ) / (((10 ^ 20 * l.2 : ℕ) : ℤ) : ℝ)
      = 2 * 3.14159265358979323847 * ((l.1 : ℝ) / l.2) := by
    simp only [twoPiHi, Int.cast_natCast]; push_cast; field_simp; norm_num; ring
  have eT : (((twoPiLo * t.1 : ℕ) : ℤ) : ℝ) / (((10 ^ 20 * t.2 : ℕ) : ℤ) : ℝ)
      = 2 * 3.14159265358979323846 * ((t.1 : ℝ) / t.2) := by
    simp only [twoPiLo, Int.cast_natCast]; push_cast; field_simp; norm_num; ring
  constructor
  · have hb := sine_lt_of_below i _ _ (by positivity) (by positivity) (by rw [eL]; nlinarith) hlo
    rw [eL] at hb
    refine lt_of_le_of_lt ?_ (by exact_mod_cast hb)
    have := sin_le_sin_of_le_of_le_pi_div_two (x := 2 * π * ((l.1 : ℝ) / l.2))
      (y := 2 * 3.14159265358979323847 * ((l.1 : ℝ) / l.2)) (by nlinarith) (by nlinarith) (by nlinarith)
    linarith
  · have hb := lt_sine_of_above i _ _ (by positivity) (by positivity) (by rw [eT]; nlinarith) hhi
    rw [eT] at hb
    refine lt_of_lt_of_le (by exact_mod_cast hb) ?_
    have := sin_le_sin_of_le_of_le_pi_div_two
      (x := 2 * 3.14159265358979323846 * ((t.1 : ℝ) / t.2)) (y := 2 * π * ((t.1 : ℝ) / t.2))
      (by nlinarith) (by nlinarith) (by nlinarith)
    linarith

/-- No fraction with a denominator up to 131070 lies strictly between Farey neighbours. -/
theorem farey_gap (l t : ℕ × ℕ) (a b : ℕ) (hf : t.1 * l.2 = l.1 * t.2 + 1) (hN : 131070 < l.2 + t.2)
    (hb : b ≤ 131070) (h : a * t.2 < t.1 * b) : a * l.2 ≤ l.1 * b := by
  by_contra hc
  rw [not_le] at hc
  have h1 : t.1 * b ≥ a * t.2 + 1 := h
  have h2 : a * l.2 ≥ l.1 * b + 1 := hc
  have e : l.2 * (t.1 * b) + t.2 * (l.1 * b + 1) ≤ l.2 * (t.1 * b) + t.2 * (a * l.2) := by gcongr
  have e2 : l.2 * (a * t.2 + 1) ≤ l.2 * (t.1 * b) := by gcongr
  have e3 : b * (t.1 * l.2) = b * (l.1 * t.2 + 1) := by rw [hf]
  nlinarith

/-- What one certified row says of every fraction a / b in [0, 1/4]: it is on one side of T or the
other as 255 sin is on one side of i or the other, and 255 sin is never i. -/
theorem row_spec (i : ℕ) (l t : ℕ × ℕ) (h : rowOk i l t = true) (a b : ℕ) (hb0 : 0 < b)
    (hb : b ≤ 131070) (h4 : 4 * a ≤ b) :
    (t.1 * b ≤ a * t.2 → (i : ℝ) < 255 * sin (2 * π * ((a : ℝ) / b))) ∧
    (¬ t.1 * b ≤ a * t.2 → 255 * sin (2 * π * ((a : ℝ) / b)) < i) := by
  obtain ⟨hlo, hhi⟩ := row_bounds i l t h
  simp only [rowOk, Bool.and_eq_true, beq_iff_eq, decide_eq_true_eq] at h
  obtain ⟨⟨⟨⟨⟨⟨hf, hN⟩, h4t⟩, hl0⟩, hm⟩, -⟩, -⟩ := h
  have hb' : (0 : ℝ) < b := by exact_mod_cast hb0
  have hl' : (0 : ℝ) < l.2 := by exact_mod_cast hl0
  have ht' : (0 : ℝ) < t.2 := by exact_mod_cast (by omega : 0 < t.2)
  have h4' : (4 : ℝ) * a ≤ b := by exact_mod_cast h4
  have hm' : (100 : ℝ) * l.1 ≤ 24 * l.2 := by exact_mod_cast hm
  have hq : (a : ℝ) / b ≤ 1 / 4 := by rw [div_le_div_iff₀ hb' (by norm_num)]; linarith
  constructor
  · intro hge
    have hx : (t.1 : ℝ) / t.2 ≤ (a : ℝ) / b := by
      rw [div_le_div_iff₀ ht' hb']; exact_mod_cast hge
    have := quarter_mono (by positivity) hx hq
    linarith
  · intro hlt
    have hle := farey_gap l t a b hf hN hb (by omega)
    have hx : (a : ℝ) / b ≤ (l.1 : ℝ) / l.2 := by
      rw [div_le_div_iff₀ hb' hl']; exact_mod_cast hle
    have := quarter_mono (by positivity) hx
      (by rw [div_le_div_iff₀ hl' (by norm_num)]; linarith)
    linarith

/-- Counting the certified thresholds up to a fraction counts the integers from i on up to 255 sin. -/
theorem countP_rows (a b : ℕ) (hb0 : 0 < b) (hb : b ≤ 131070) (h4 : 4 * a ≤ b) :
    ∀ (ls ts : List (ℕ × ℕ)) (i : ℕ), rowsOk i ls ts = true → i + ls.length = 255 →
      ts.countP (fun t => decide (t.1 * b ≤ a * t.2))
        = (List.range' i (256 - i)).countP
            (fun j => decide (j ≤ ⌊255 * sin (2 * π * ((a : ℝ) / b))⌋₊))
  | [], [t], i, h, hi => by
    have ht : t = (1, 4) := by simpa [rowsOk] using h
    obtain rfl : i = 255 := by simpa using hi
    have hb' : (0 : ℝ) < b := by exact_mod_cast hb0
    subst ht
    have key : (b ≤ a * 4) ↔ 255 ≤ ⌊255 * sin (2 * π * ((a : ℝ) / b))⌋₊ := by
      rw [Nat.le_floor_iff' (by norm_num)]
      constructor
      · intro h'
        have hab : (a : ℝ) / b = 1 / 4 := by
          rw [div_eq_div_iff hb'.ne' (by norm_num)]; exact_mod_cast (by omega : a * 4 = 1 * b)
        rw [hab, show 2 * π * (1 / 4) = π / 2 by ring, sin_pi_div_two]; norm_num
      · intro h'
        by_contra hc
        have hlt : (a : ℝ) / b < 1 / 4 := by
          rw [div_lt_div_iff₀ hb' (by norm_num)]; exact_mod_cast (by omega : a * 4 < 1 * b)
        have hs : sin (2 * π * ((a : ℝ) / b)) < sin (π / 2) := by
          apply sin_lt_sin_of_lt_of_le_pi_div_two _ le_rfl
          · nlinarith [pi_pos]
          · have : 0 ≤ (a : ℝ) / b := by positivity
            nlinarith [pi_pos]
        rw [sin_pi_div_two] at hs
        push_cast at h'
        linarith
    have : List.range' 255 (256 - 255) = [255] := rfl
    rw [this]
    by_cases h' : b ≤ a * 4
    · simp [h', key.mp h']
    · have := mt key.mpr h'
      simp only [List.countP_cons, List.countP_nil, one_mul, h', this, decide_false]
  | l :: ls, t :: ts, i, h, hi => by
    simp only [rowsOk, Bool.and_eq_true] at h
    have ih := countP_rows a b hb0 hb h4 ls ts (i + 1) h.2 (by simp only [List.length_cons] at hi; omega)
    obtain ⟨h1, h2⟩ := row_spec i l t h.1 a b hb0 hb h4
    simp only [List.length_cons] at hi
    have e : 256 - i = (256 - (i + 1)) + 1 := by omega
    rw [List.countP_cons, ih, e, List.range'_succ, List.countP_cons]
    congr 1
    by_cases ht : t.1 * b ≤ a * t.2
    · have : i ≤ ⌊255 * sin (2 * π * ((a : ℝ) / b))⌋₊ := Nat.le_floor (h1 ht).le
      simp [ht, this]
    · have : ¬ i ≤ ⌊255 * sin (2 * π * ((a : ℝ) / b))⌋₊ := fun hle => by
        rcases Nat.eq_zero_or_pos i with rfl | hp
        · have hs : 0 ≤ sin (2 * π * ((a : ℝ) / b)) := by
            apply sin_nonneg_of_nonneg_of_le_pi
            · positivity
            · have hb' : (0 : ℝ) < b := by exact_mod_cast hb0
              have : (a : ℝ) / b ≤ 1 / 4 := by
                rw [div_le_div_iff₀ hb' (by norm_num)]; exact_mod_cast (by omega : a * 4 ≤ 1 * b)
              nlinarith [pi_pos]
          have := h2 ht
          norm_num at this
          linarith
        · have := (Nat.le_floor_iff' hp.ne').mp hle
          linarith [h2 ht]
      simp [ht, this]
  | [], [], _, h, _ => by simp [rowsOk] at h
  | [], _ :: _ :: _, _, h, _ => by simp [rowsOk] at h
  | _ :: _, [], _, h, _ => by simp [rowsOk] at h

/-- 255 sin is no integer of 1..254 at a fraction with a denominator up to 131070. -/
theorem rows_ne (a b : ℕ) (hb0 : 0 < b) (hb : b ≤ 131070) (h4 : 4 * a ≤ b) :
    ∀ (ls ts : List (ℕ × ℕ)) (i : ℕ), rowsOk i ls ts = true → ∀ j, i ≤ j → j < i + ls.length →
      255 * sin (2 * π * ((a : ℝ) / b)) ≠ j
  | [], _, i, _, j, hi, hj => by simp at hj; omega
  | _ :: _, [], _, h, _, _, _ => by simp [rowsOk] at h
  | l :: ls, t :: ts, i, h, j, hi, hj => by
    simp only [rowsOk, Bool.and_eq_true] at h
    simp only [List.length_cons] at hj
    rcases Nat.eq_or_lt_of_le hi with rfl | hlt
    · obtain ⟨h1, h2⟩ := row_spec i l t h.1 a b hb0 hb h4
      by_cases ht : t.1 * b ≤ a * t.2
      · exact (h1 ht).ne'
      · exact (h2 ht).ne
    · exact rows_ne a b hb0 hb h4 ls ts (i + 1) h.2 j hlt (by omega)

theorem countP_range' (k : ℕ) : ∀ m, (List.range' 1 m).countP (fun j => decide (j ≤ k)) = min m k
  | 0 => by simp
  | m + 1 => by
    rw [List.range'_concat, List.countP_append, countP_range' k m]
    simp only [List.countP_cons, List.countP_nil, decide_eq_true_eq]
    split <;> omega

theorem sineLowers_length : sineLowers.length = 254 := by decide +kernel

/-- `sineLevel a b` is floor(255 sin(2 pi a / b)) for a / b in [0, 1/4]. -/
theorem sineLevel_eq (a b : ℕ) (hb0 : 0 < b) (hb : b ≤ 131070) (h4 : 4 * a ≤ b) :
    sineLevel a b = ⌊255 * sin (2 * π * ((a : ℝ) / b))⌋₊ := by
  have h := countP_rows a b hb0 hb h4 sineLowers sineThresholds 1 rowsOk_table
    (by rw [sineLowers_length])
  have hle : ⌊255 * sin (2 * π * ((a : ℝ) / b))⌋₊ ≤ 255 :=
    Nat.floor_le_of_le (by have := sin_le_one (2 * π * ((a : ℝ) / b)); push_cast; linarith)
  rw [sineLevel, h, countP_range']
  omega

/-- 255 sin(2 pi a / b) is an integer only at a / b = 0 and a / b = 1/4. -/
theorem sine_not_integer (a b : ℕ) (hb0 : 0 < b) (hb : b ≤ 131070) (h4 : 4 * a ≤ b) (n : ℕ)
    (hn : 1 ≤ n) (hn' : n ≤ 254) : 255 * sin (2 * π * ((a : ℝ) / b)) ≠ n :=
  rows_ne a b hb0 hb h4 sineLowers sineThresholds 1 rowsOk_table n hn
    (by rw [sineLowers_length]; omega)

/-- The sine of a phase below the period, folded into a quarter turn. -/
theorem sine_fold (q W : ℕ) (hq : q < W) :
    sin (2 * π * q / W) = (if lowerHalf q W then -1 else 1)
      * sin (2 * π * ((foldPhase q W : ℝ) / ((2 * W : ℕ) : ℝ))) := by
  have hW : (0 : ℝ) < W := by exact_mod_cast (by omega : 0 < W)
  rcases Nat.lt_or_ge W (2 * q) with hl | hl
  · have hlow : lowerHalf q W = true := by simpa [lowerHalf] using hl
    rw [hlow, if_pos rfl, neg_one_mul, ← sin_neg]
    rcases Nat.lt_or_ge (3 * W) (4 * q) with h | h
    · have hf : foldPhase q W = 2 * W - 2 * q := by
        unfold foldPhase; rw [if_neg (by omega), if_neg (by omega), if_neg (by omega)]
      have e : ((2 * W - 2 * q : ℕ) : ℝ) = 2 * W - 2 * q := by
        rw [Nat.cast_sub (by omega)]; push_cast; ring
      rw [hf, e, ← sin_add_two_pi (-_)]
      congr 1; push_cast; field_simp; ring
    · have hf : foldPhase q W = 2 * q - W := by
        unfold foldPhase; rw [if_neg (by omega), if_neg (by omega), if_pos h]
      have e : ((2 * q - W : ℕ) : ℝ) = 2 * q - W := by
        rw [Nat.cast_sub (by omega)]; push_cast; ring
      rw [hf, e, ← sin_pi_sub]
      congr 1; push_cast; field_simp; ring
  · have hlow : lowerHalf q W = false := by simpa [lowerHalf] using hl
    rw [hlow, if_neg (by simp), one_mul]
    rcases Nat.lt_or_ge W (4 * q) with h | h
    · have hf : foldPhase q W = W - 2 * q := by
        unfold foldPhase; rw [if_neg (by omega), if_pos hl]
      have e : ((W - 2 * q : ℕ) : ℝ) = W - 2 * q := by
        rw [Nat.cast_sub (by omega)]; push_cast; ring
      rw [hf, e, ← sin_pi_sub]
      congr 1; push_cast; field_simp
    · have hf : foldPhase q W = 2 * q := by unfold foldPhase; rw [if_pos h]
      rw [hf]
      congr 1; push_cast; field_simp

theorem foldPhase_le (q W : ℕ) (hq : q < W) : 4 * foldPhase q W ≤ 2 * W := by
  unfold foldPhase; split_ifs <;> omega

/-- The magnitude M = 255 |sin(2 pi q / W)| and the model's floor and ceiling of it. -/
theorem mag_spec (q W : ℕ) (hq : q < W) (hW : W ≤ 65535) :
    ∃ M : ℝ, 127.5 * sin (2 * π * q / W) = (if lowerHalf q W then -1 else 1) * (M / 2) ∧
      (sineMagFloor q W : ℝ) ≤ M ∧ M < sineMagFloor q W + 1 ∧
      (sineMagCeil q W : ℝ) - 1 < M ∧ M ≤ sineMagCeil q W ∧ sineMagCeil q W ≤ 255 ∧
      (sineAtPeak q W = true → M = 255) ∧
      (sineAtPeak q W = false → ∀ n : ℕ, 1 ≤ n → M ≠ n) := by
  have h4 := foldPhase_le q W hq
  have hb0 : 0 < 2 * W := by omega
  have hb : 2 * W ≤ 131070 := by omega
  have hb' : (0 : ℝ) < ((2 * W : ℕ) : ℝ) := by exact_mod_cast hb0
  refine ⟨255 * sin (2 * π * ((foldPhase q W : ℝ) / ((2 * W : ℕ) : ℝ))), ?_, ?_⟩
  · rw [sine_fold q W hq]; split <;> ring
  have hlev := sineLevel_eq (foldPhase q W) (2 * W) hb0 hb h4
  have hni := sine_not_integer (foldPhase q W) (2 * W) hb0 hb h4
  have hx0 : 0 ≤ (foldPhase q W : ℝ) / ((2 * W : ℕ) : ℝ) := by positivity
  have hx1 : (foldPhase q W : ℝ) / ((2 * W : ℕ) : ℝ) ≤ 1 / 4 := by
    rw [div_le_div_iff₀ hb' (by norm_num)]; exact_mod_cast (by omega : foldPhase q W * 4 ≤ 1 * (2 * W))
  have hzero : foldPhase q W = 0 → (foldPhase q W : ℝ) / ((2 * W : ℕ) : ℝ) = 0 := fun h => by simp [h]
  have hpos : foldPhase q W ≠ 0 → 0 < (foldPhase q W : ℝ) / ((2 * W : ℕ) : ℝ) := fun h => by
    have : (0 : ℝ) < foldPhase q W := by exact_mod_cast Nat.pos_of_ne_zero h
    positivity
  have hpeak : sineAtPeak q W = true → (foldPhase q W : ℝ) / ((2 * W : ℕ) : ℝ) = 1 / 4 := fun h => by
    have h' : 2 * foldPhase q W = W := by simpa [sineAtPeak] using h
    rw [div_eq_div_iff hb'.ne' (by norm_num)]
    exact_mod_cast (by omega : foldPhase q W * 4 = 1 * (2 * W))
  have hnpeak : sineAtPeak q W = false → (foldPhase q W : ℝ) / ((2 * W : ℕ) : ℝ) < 1 / 4 := fun h => by
    have h' : 2 * foldPhase q W ≠ W := by simpa [sineAtPeak] using h
    rw [div_lt_div_iff₀ hb' (by norm_num)]
    exact_mod_cast (by omega : foldPhase q W * 4 < 1 * (2 * W))
  generalize (foldPhase q W : ℝ) / ((2 * W : ℕ) : ℝ) = x at *
  have hpi := pi_pos
  have hs0 : 0 ≤ sin (2 * π * x) := sin_nonneg_of_nonneg_of_le_pi (by positivity) (by nlinarith)
  have hs1 : sin (2 * π * x) ≤ 1 := sin_le_one _
  have hM0 : foldPhase q W = 0 → sin (2 * π * x) = 0 := fun h => by simp [hzero h]
  have hM1 : sineAtPeak q W = true → sin (2 * π * x) = 1 := fun h => by
    rw [hpeak h, show 2 * π * (1 / 4) = π / 2 by ring, sin_pi_div_two]
  have hlt1 : sineAtPeak q W = false → sin (2 * π * x) < 1 := fun h => by
    have := sin_lt_sin_of_lt_of_le_pi_div_two (x := 2 * π * x) (y := π / 2) (by nlinarith) le_rfl
      (by nlinarith [hnpeak h])
    rwa [sin_pi_div_two] at this
  have hgt0 : foldPhase q W ≠ 0 → 0 < sin (2 * π * x) := fun h =>
    sin_pos_of_pos_of_lt_pi (by have := hpos h; positivity) (by nlinarith)
  have hne : sineAtPeak q W = false → ∀ n : ℕ, 1 ≤ n → 255 * sin (2 * π * x) ≠ n := by
    intro hp n hn he
    rcases Nat.lt_or_ge n 255 with h | h
    · exact hni n hn (by omega) he
    · have : (255 : ℝ) ≤ n := by exact_mod_cast h
      linarith [hlt1 hp]
  have hfl : (sineMagFloor q W : ℝ) ≤ 255 * sin (2 * π * x) := by
    rw [sineMagFloor, hlev]; exact Nat.floor_le (by positivity)
  have hfl1 : 255 * sin (2 * π * x) < sineMagFloor q W + 1 := by
    rw [sineMagFloor, hlev]; exact Nat.lt_floor_add_one _
  refine ⟨hfl, hfl1, ?_, ?_, ?_, fun h => by rw [hM1 h]; norm_num, hne⟩
  · unfold sineMagCeil
    split_ifs with h
    · linarith
    · push_cast
      push Not at h
      have hp : sineAtPeak q W = false := by simpa using h.2
      rcases Nat.eq_zero_or_pos (sineMagFloor q W) with hz | hz
      · rw [hz]; have := hgt0 h.1; push_cast; linarith
      · have := lt_of_le_of_ne hfl (Ne.symm (hne hp _ hz))
        linarith
  · unfold sineMagCeil
    split_ifs with h
    · rcases h with h | h
      · rw [hM0 h, mul_zero]; positivity
      · rw [hM1 h] at hfl1 ⊢
        have h255 : ((255 : ℕ) : ℝ) < ((sineMagFloor q W + 1 : ℕ) : ℝ) := by push_cast; linarith
        have h255' : 255 < sineMagFloor q W + 1 := by exact_mod_cast h255
        have : ((255 : ℕ) : ℝ) ≤ sineMagFloor q W := by exact_mod_cast Nat.lt_succ_iff.mp h255'
        push_cast at this; linarith
    · push_cast; linarith
  · have hle : sineMagFloor q W ≤ 255 := by
      have : (sineMagFloor q W : ℝ) ≤ ((255 : ℕ) : ℝ) := by push_cast; linarith
      exact_mod_cast this
    unfold sineMagCeil
    split_ifs with h
    · exact hle
    · push Not at h
      have hp : sineAtPeak q W = false := by simpa using h.2
      have : (sineMagFloor q W : ℝ) < ((255 : ℕ) : ℝ) := by push_cast; linarith [hlt1 hp]
      have : sineMagFloor q W < 255 := by exact_mod_cast this
      omega

theorem floor_half (a : ℕ) (X : ℝ) (h : (a : ℝ) ≤ X) (h' : X < a + 1) :
    ⌊X / 2⌋ = ((a / 2 : ℕ) : ℤ) := by
  have e1 : ((2 * (a / 2) : ℕ) : ℝ) ≤ (a : ℝ) := by exact_mod_cast Nat.mul_div_le _ _
  have e2 : (a : ℝ) ≤ ((2 * (a / 2) + 1 : ℕ) : ℝ) := by exact_mod_cast (by omega)
  rw [Int.floor_eq_iff, Int.cast_natCast]
  generalize a / 2 = k at *
  push_cast at e1 e2
  constructor <;> linarith

/-- `sineFloor` is floor(v). -/
theorem sineFloor_eq (q W : ℕ) (hq : q < W) (hW : W ≤ 65535) :
    (sineFloor q W : ℤ) = ⌊idealDuty q W⌋ := by
  obtain ⟨M, hM, h1, h2, h3, h4, h5, -, -⟩ := mag_spec q W hq hW
  rw [idealDuty, hM]
  unfold sineFloor
  split
  · have e : ((255 - sineMagCeil q W : ℕ) : ℝ) = 255 - sineMagCeil q W := by
      rw [Nat.cast_sub h5]; push_cast; ring
    rw [← floor_half (255 - sineMagCeil q W) (255 - M) (by rw [e]; linarith) (by rw [e]; linarith)]
    congr 1; ring
  · have e : ((255 + sineMagFloor q W : ℕ) : ℝ) = 255 + sineMagFloor q W := by push_cast; ring
    rw [← floor_half (255 + sineMagFloor q W) (255 + M) (by rw [e]; linarith) (by rw [e]; linarith)]
    congr 1; ring

/-- `dutyRef` is floor(v + 1/2), the reference function of R161. -/
theorem dutyRef_eq (q W : ℕ) (hq : q < W) (hW : W ≤ 65535) :
    (dutyRef q W : ℤ) = ⌊idealDuty q W + 1 / 2⌋ := by
  obtain ⟨M, hM, h1, h2, h3, h4, h5, -, -⟩ := mag_spec q W hq hW
  rw [idealDuty, hM]
  unfold dutyRef
  split
  · have e : ((256 - sineMagCeil q W : ℕ) : ℝ) = 256 - sineMagCeil q W := by
      rw [Nat.cast_sub (by omega)]; push_cast; ring
    rw [← floor_half (256 - sineMagCeil q W) (256 - M) (by rw [e]; linarith) (by rw [e]; linarith)]
    congr 1; ring
  · have e : ((256 + sineMagFloor q W : ℕ) : ℝ) = 256 + sineMagFloor q W := by push_cast; ring
    rw [← floor_half (256 + sineMagFloor q W) (256 + M) (by rw [e]; linarith) (by rw [e]; linarith)]
    congr 1; ring

/-- v is an integer only where the sine is 1 or -1 in magnitude. -/
theorem idealDuty_ne (q W : ℕ) (hq : q < W) (hW : W ≤ 65535) (hp : sineAtPeak q W = false) (n : ℕ) :
    idealDuty q W ≠ n := by
  obtain ⟨M, hM, h1, h2, h3, h4, h5, -, hn⟩ := mag_spec q W hq hW
  have hM0 : 0 ≤ M := le_trans (Nat.cast_nonneg _) h1
  intro he
  rw [idealDuty, hM] at he
  split at he
  · have hb : (2 * n : ℕ) ≤ 255 := by
      have : ((2 * n : ℕ) : ℝ) ≤ ((255 : ℕ) : ℝ) := by push_cast; linarith
      exact_mod_cast this
    refine hn hp (255 - 2 * n) (by omega) ?_
    rw [Nat.cast_sub hb]; push_cast; linarith
  · have hb : 255 ≤ (2 * n : ℕ) := by
      have : ((255 : ℕ) : ℝ) ≤ ((2 * n : ℕ) : ℝ) := by push_cast; linarith
      exact_mod_cast this
    refine hn hp (2 * n - 255) (by omega) ?_
    rw [Nat.cast_sub hb]; push_cast; linarith

theorem idealDuty_peak (q W : ℕ) (hq : q < W) (hW : W ≤ 65535) (hp : sineAtPeak q W = true) :
    ∃ z : ℤ, idealDuty q W = z := by
  obtain ⟨M, hM, -, -, -, -, -, h, -⟩ := mag_spec q W hq hW
  rw [idealDuty, hM, h hp]
  split
  · exact ⟨0, by norm_num⟩
  · exact ⟨255, by norm_num⟩

/-- `sineCeil` is ceil(v). -/
theorem sineCeil_eq (q W : ℕ) (hq : q < W) (hW : W ≤ 65535) :
    (sineCeil q W : ℤ) = ⌈idealDuty q W⌉ := by
  have hf := sineFloor_eq q W hq hW
  have hfle := Int.floor_le (idealDuty q W)
  have hflt := Int.lt_floor_add_one (idealDuty q W)
  rw [← hf, Int.cast_natCast] at hfle hflt
  unfold sineCeil
  split_ifs with h
  · obtain ⟨z, hz⟩ := idealDuty_peak q W hq hW h
    rw [hf, hz, Int.floor_intCast, Int.ceil_intCast]
  · symm
    rw [Int.ceil_eq_iff]
    have hne := idealDuty_ne q W hq hW (by simpa using h) (sineFloor q W)
    have hlt := lt_of_le_of_ne hfle (Ne.symm hne)
    constructor
    · push_cast; linarith
    · push_cast; linarith

/-- v is a half-integer only where the sine is 0 (R161). -/
theorem idealDuty_not_half (q W : ℕ) (hq : q < W) (hW : W ≤ 65535)
    (hs : sin (2 * π * q / W) ≠ 0) (n : ℤ) : idealDuty q W + 1 / 2 ≠ n := by
  obtain ⟨M, hM, h1, h2, h3, h4, h5, hp, hn⟩ := mag_spec q W hq hW
  have hM0 : 0 ≤ M := le_trans (Nat.cast_nonneg _) h1
  have hM255 : M ≤ 255 := h4.trans (by exact_mod_cast h5)
  intro he
  have hv : ∃ k : ℤ, M = 2 * k := by
    rw [idealDuty, hM] at he
    split at he
    · exact ⟨128 - n, by push_cast; linarith⟩
    · exact ⟨n - 128, by push_cast; linarith⟩
  obtain ⟨k, hk⟩ := hv
  have hk0 : 0 ≤ k := by
    have : (0 : ℝ) ≤ k := by linarith
    exact_mod_cast this
  have hk1 : 2 * k ≤ 255 := by
    have : ((2 * k : ℤ) : ℝ) ≤ ((255 : ℤ) : ℝ) := by push_cast; linarith
    exact_mod_cast this
  rcases Bool.eq_false_or_eq_true (sineAtPeak q W) with hpk | hpk
  · have h255 := hp hpk
    rw [hk] at h255
    have : (2 * k : ℤ) = 255 := by exact_mod_cast h255
    omega
  · have hkz : k ≠ 0 := by
      rintro rfl
      apply hs
      have : 127.5 * sin (2 * π * q / W) = 0 := by rw [hM, hk]; simp
      linarith
    obtain ⟨m, rfl⟩ := Int.eq_ofNat_of_zero_le hk0
    refine hn hpk (2 * m) (by omega) ?_
    rw [hk]; push_cast; ring

end Sys2Proof.Laws.Sine
end

