-- ==== Sys2Proof/Machine/HostSequences.lean ====
section
/-! DEFINITION. The reference host sequences of spec/44_host_sequences.md R224 to R227. They are host
programs, not rules about the hardware (D30): what the source's software does, in this spec's commands. -/

namespace Sys2Proof.Machine

/-- Variant-1 start-up (R224). -/
def bootV1 : List Line :=
  [.atReset, .instr .ptConfig, .instr .pwmConfig, .pseudo (.ptSetFreq freqV1), .instr .ptStart,
   .instr .pwmStart]

/-- Variant-1 loop and power-down (R225): the values of the host's flag `generating`, one for each
time the loop tests it. -/
def loopV1 : List Bool → List Line
  | [] => []
  | true :: rest => .instr .synStep :: loopV1 rest
  | false :: _ => [.pseudo .powerDown]

/-- The variant-1 host program (R224, R225). -/
def hostV1 (generating : List Bool) : List Line := bootV1 ++ loopV1 generating

/-- Variant-2 start-up (R226). -/
def bootV2 : List Line :=
  [.atReset, .instr .ptConfig, .instr .pwmConfig, .instr .selApplySw, .instr .ptStart,
   .instr .pwmStart]

/-- The variant-2 loop, n iterations (R227). -/
def loopV2 (n : Nat) : List Line := List.replicate n (.pseudo .v2Iteration)

/-- The variant-2 host program (R226, R227). -/
def hostV2 (n : Nat) : List Line := bootV2 ++ loopV2 n

end Sys2Proof.Machine
end

