-- ==== Sys2Proof/Tests/Slice0.lean ====
section
/-! SUPPORT. The model's own tests: well-formedness, decoding, the spec's vectors (spec/95_test_vectors.md,
named by their rows; what a test expects comes from there or is worked out from the rule it names), and a
witness for the hypotheses of every obligation that has some. -/

open Sys2Proof Sys2Proof.Machine

/-- The outcome is a next state of which `p` holds. -/
def onNext (o : Host.Outcome State Fault Refusal) (p : State → Bool) : Bool :=
  match o with
  | .next s => p s
  | .fault _ => false
  | .refused _ => false

/-- VARIANT 1 with the other parameters of the launch state. -/
def configV1 : Config := { resetConfig with variant := .one }

/-- WRAP_COMPARE = EQ and PWM_COMPARE = LE. -/
def configAlt : Config := { resetConfig with wrapCompare := .eq, pwmCompare := .le }

/-- The launch state in VARIANT 1. -/
def stateV1 : State := State.launch configV1

/-- Both timers configured and running. -/
def running : State :=
  { State.reset with ptCfg := true, ptRun := true, wrap := 10000, pwmCfg := true, pwmRun := true }

/-- The switches show a code at sw_s. -/
def shows (c : Code) : State := { State.reset with sync := [0, c] }

/-! ## Well-formedness (R9, R74): one ill-formed term for each check -/

theorem test_wf_launch :
    resetConfig.wf = true ∧ configV1.wf = true ∧ configAlt.wf = true := by decide

theorem test_wf_fclk_zero : Config.wf { resetConfig with fClk := ⟨0, 1⟩ } = false := by decide

theorem test_wf_fclk_denominator :
    Config.wf { resetConfig with fClk := ⟨8000000, 0⟩ } = false := by decide

theorem test_wf_ptPrescale : Config.wf { resetConfig with ptPrescale := 0 } = false := by decide

theorem test_wf_pwmPrescale : Config.wf { resetConfig with pwmPrescale := 0 } = false := by decide

theorem test_wf_freq_zero :
    Config.wf { resetConfig with freqTable := resetConfig.freqTable.set 3 ⟨0, 1⟩ } = false := by
  decide

theorem test_wf_freq_denominator :
    Config.wf { resetConfig with freqTable := resetConfig.freqTable.set 3 ⟨330, 0⟩ } = false := by
  decide

/-- F6: PERIOD(3000000) = 0. -/
theorem test_wf_period_zero :
    Config.wf { resetConfig with freqTable := resetConfig.freqTable.set 7 ⟨3000000, 1⟩ } = false := by
  decide

/-- F5: PERIOD(15) = 66667. -/
theorem test_wf_period_wide :
    Config.wf { resetConfig with freqTable := resetConfig.freqTable.set 0 ⟨15, 1⟩ } = false := by
  decide

/-- R = 50,000,000 Hz gives PERIOD(600) = 83333. -/
theorem test_wf_v1_period : Config.wf { configV1 with fClk := ⟨400000000, 1⟩ } = false := by decide

/-- R42: VARIANT 1 has no table. -/
theorem test_wf_v1_ignores_table :
    Config.wf { configV1 with freqTable := configV1.freqTable.set 3 ⟨0, 1⟩ } = true := by decide

theorem test_wf_selector_in_v1 :
    Instr.wf .one .selRead = false ∧ Instr.wf .one (.selLookup 0) = false
    ∧ Instr.wf .one (.selApply 0) = false ∧ Instr.wf .one .selApplySw = false
    ∧ Instr.wf .one .synStep = true ∧ Instr.wf .two .selRead = true := by decide

theorem test_step_refuses :
    step { State.reset with cfg := { resetConfig with ptPrescale := 0 } } = .refused .illFormedConfig :=
  if_neg (by decide)

/-! ## Decoding: every constructor's word, its fields {op, z, data} written out from R70, R71 and R73 -/

/-- E1 -/
theorem test_decode_nop :
    decode .one 0b000000000000000000000000#24 = .cmd .nop
    ∧ decode .two 0b000000000000000000000000#24 = .cmd .nop := by decide

/-- E3 -/
theorem test_decode_ptConfig :
    decode .one 0b000100000000000000000000#24 = .cmd .ptConfig
    ∧ decode .two 0b000100000000000000000000#24 = .cmd .ptConfig := by decide

/-- E5 -/
theorem test_decode_ptSetWrap :
    decode .one 0b001000001111111111111111#24 = .cmd (.ptSetWrap 65535)
    ∧ decode .two 0b001000001111111111111111#24 = .cmd (.ptSetWrap 65535) := by decide

/-- E4 -/
theorem test_decode_ptSetWrap_zero :
    decode .one 0b001000000000000000000000#24 = .cmd (.ptSetWrap 0)
    ∧ decode .two 0b001000000000000000000000#24 = .cmd (.ptSetWrap 0) := by decide

theorem test_decode_ptStart :
    decode .one 0b001100000000000000000000#24 = .cmd .ptStart
    ∧ decode .two 0b001100000000000000000000#24 = .cmd .ptStart := by decide

theorem test_decode_ptStop :
    decode .one 0b010000000000000000000000#24 = .cmd .ptStop
    ∧ decode .two 0b010000000000000000000000#24 = .cmd .ptStop := by decide

theorem test_decode_ptReadPhase :
    decode .one 0b010100000000000000000000#24 = .cmd .ptReadPhase
    ∧ decode .two 0b010100000000000000000000#24 = .cmd .ptReadPhase := by decide

theorem test_decode_pwmConfig :
    decode .one 0b011000000000000000000000#24 = .cmd .pwmConfig
    ∧ decode .two 0b011000000000000000000000#24 = .cmd .pwmConfig := by decide

/-- E7 -/
theorem test_decode_pwmSetDuty :
    decode .one 0b011100000000000011111111#24 = .cmd (.pwmSetDuty 255)
    ∧ decode .two 0b011100000000000011111111#24 = .cmd (.pwmSetDuty 255) := by decide

theorem test_decode_pwmStart :
    decode .one 0b100000000000000000000000#24 = .cmd .pwmStart
    ∧ decode .two 0b100000000000000000000000#24 = .cmd .pwmStart := by decide

theorem test_decode_pwmStop :
    decode .one 0b100100000000000000000000#24 = .cmd .pwmStop
    ∧ decode .two 0b100100000000000000000000#24 = .cmd .pwmStop := by decide

/-- E9 -/
theorem test_decode_synStep :
    decode .one 0b101000000000000000000000#24 = .cmd .synStep
    ∧ decode .two 0b101000000000000000000000#24 = .cmd .synStep := by decide

/-- E11 -/
theorem test_decode_selRead :
    decode .two 0b101100000000000000000000#24 = .cmd .selRead := by decide

/-- E12 -/
theorem test_decode_selLookup :
    decode .two 0b110000000000000000000111#24 = .cmd (.selLookup 7) := by decide

/-- E14 -/
theorem test_decode_selApply :
    decode .two 0b110100000000000000000011#24 = .cmd (.selApply 3) := by decide

/-- E15 -/
theorem test_decode_selApplySw :
    decode .two 0b111000000000000000000000#24 = .cmd .selApplySw := by decide

/-- E2, E6, E8, E13, E16, E17, E18. -/
theorem test_decode_illegal :
    decode .two 0x000001#24 = .illegal .nonzeroData
    ∧ decode .two 0x210000#24 = .illegal .nonzeroZ ∧ decode .two 0x700100#24 = .illegal .nonzeroData
    ∧ decode .two 0xC00008#24 = .illegal .nonzeroData ∧ decode .two 0xE00001#24 = .illegal .nonzeroData
    ∧ decode .two 0xF00000#24 = .illegal .reservedOpcode ∧ decode .two 0xFFFFFF#24 = .illegal .nonzeroZ := by
  decide

/-- E10, S8. -/
theorem test_decode_gated :
    decode .one 0xB00000#24 = .illegal .variantGated ∧ decode .one 0xC00007#24 = .illegal .variantGated
    ∧ decode .one 0xD00003#24 = .illegal .variantGated ∧ decode .one 0xE00000#24 = .illegal .variantGated := by
  decide

/-- The table numbers the word's bits as R70 does; W1: 0x202710. -/
theorem test_decodeTableWord :
    decodeTableWord 24 0xD00006 = some (.selApply 6) ∧ decodeTableWord 24 0xF00000 = none
    ∧ decodeTableWord 24 0x202710 = some (.ptSetWrap 10000) := by decide

/-- A1, as the first command after reset. -/
theorem test_withFetchWord :
    onNext (step (State.reset.withFetchWord 24 0x100000))
      (fun t => t.ptCfg && t.inputs == [] && t.cmdIndex == 1) = true := by decide

/-! ## phase_accumulator -/

/-- A1. -/
theorem test_ptConfig :
    onNext (exec .ptConfig State.reset) (fun t => t.ptCfg && !t.ptRun) = true := by decide

/-- A4. -/
theorem test_ptSetWrap :
    onNext (exec (.ptSetWrap 5000) { running with phase := 8000 })
      (fun t => t.wrap == 5000 && t.phase == 8000) = true := by decide

/-- A3. -/
theorem test_ptSetWrap_zero :
    onNext (hostStep 0x200000 running)
      (fun t => t.wrap == 10000 && t.faults == [⟨.wrapZero, 1, 0x200000⟩]) = true := by decide

/-- A8 and A9. -/
theorem test_ptStart :
    onNext (exec .ptStart { running with ptRun := false, ptPre := 3 })
      (fun t => t.ptRun && t.ptPre == 0 && t.phase == 0) = true
    ∧ onNext (exec .ptStart { running with ptPre := 3 }) (fun t => t.ptRun && t.ptPre == 3) = true := by
  decide

/-- A6 and A7: Unconfigured goes before WrapZero (R244). -/
theorem test_ptStart_faults :
    onNext (exec .ptStart State.reset) (fun t => t.faults == [⟨.unconfigured, 0, 0x300000⟩]) = true
    ∧ onNext (exec .ptStart { State.reset with ptCfg := true })
      (fun t => !t.ptRun && t.faults == [⟨.wrapZero, 0, 0x300000⟩]) = true := by decide

/-- A10: PHASE is the free value that the draw gives. -/
theorem test_ptStop_running :
    ∀ k, onNext (exec .ptStop { running with phase := 417, draws := k })
      (fun t => !t.ptRun && t.phase == Config.freePhase k && t.draws == k + 1) = true := fun k => by
  simp [onNext, exec, execPtStop, running, State.reset, State.launch]

/-- A11. -/
theorem test_ptStop_stopped :
    onNext (exec .ptStop { State.reset with phase := 12 }) (fun t => t.phase == 12 && t.draws == 0) = true := by
  decide

/-- A12. -/
theorem test_ptReadPhase :
    onNext (exec .ptReadPhase { running with phase := 2500 })
      (fun t => t.rsp == 0x09C4 && t.rspValid && t.phase == 2500) = true := by decide

/-- T1 to T6. -/
theorem test_tick_ge :
    nextPhase .ge 10000 5 = 6 ∧ nextPhase .ge 10000 9999 = 0 ∧ nextPhase .ge 1 0 = 0
    ∧ nextPhase .ge 65535 65534 = 0 ∧ nextPhase .ge 65535 65535 = 0 ∧ nextPhase .ge 2273 3000 = 0 := by
  decide

/-- T7 to T9. -/
theorem test_tick_eq :
    nextPhase .eq 2273 3000 = 3001 ∧ nextPhase .eq 2273 65535 = 0 ∧ nextPhase .eq 2273 2272 = 0 := by
  decide

/-- T1 and X2. -/
theorem test_tick_enabled :
    (tickStep { running with phase := 5 }).phase = 6 ∧ tickStep State.reset = State.reset := by
  decide

/-- A13, with PT_PRESCALE = 8. -/
theorem test_prescaler :
    onNext (perform (.edge false none 0) { running with ptPre := 7 })
      (fun t => t.ptPre == 0 && t.phase == 1) = true
    ∧ onNext (perform (.edge false none 0) { running with ptPre := 6 })
      (fun t => t.ptPre == 7 && t.phase == 0) = true := by decide

/-! ## pwm_duty_register -/

/-- B1. -/
theorem test_pwmConfig :
    onNext (exec .pwmConfig State.reset) (fun t => t.pwmCfg && !t.pwmRun) = true := by decide

/-- B2. -/
theorem test_pwmSetDuty :
    onNext (exec (.pwmSetDuty 200) { running with dutyAct := 64 })
      (fun t => t.dutyBuf == 200 && t.dutyAct == 64) = true := by decide

/-- B4 and B5. -/
theorem test_pwmStart :
    onNext (exec .pwmStart { State.reset with pwmCfg := true, dutyBuf := 64, carrier := 17 })
      (fun t => t.pwmRun && t.carrier == 0 && t.dutyAct == 64 && pwmOut t) = true
    ∧ onNext (exec .pwmStart { running with carrier := 9, dutyAct := 64, dutyBuf := 200 })
      (fun t => t.carrier == 9 && t.dutyAct == 64) = true := by decide

/-- B3. -/
theorem test_pwmStart_unconfigured :
    onNext (exec .pwmStart State.reset)
      (fun t => !t.pwmRun && t.faults == [⟨.unconfigured, 0, 0x800000⟩]) = true := by decide

/-- B6. -/
theorem test_pwmStop :
    onNext (exec .pwmStop { running with carrier := 3, dutyAct := 64 })
      (fun t => !t.pwmRun && t.carrier == 3 && !pwmOut t) = true := by decide

/-- B7 and B8. -/
theorem test_carrier :
    (carrierStep { running with carrier := 10 }).carrier = 11
    ∧ carrierStep { running with carrier := 255, dutyBuf := 200, dutyAct := 64 }
      = { running with carrier := 0, dutyBuf := 200, dutyAct := 200 } := by decide

/-- B9, B10, B12. -/
theorem test_pin :
    pwmOut { running with dutyAct := 64, carrier := 63 } = true
    ∧ pwmOut { running with dutyAct := 64, carrier := 64 } = false
    ∧ pwmOut { running with cfg := configAlt, dutyAct := 64, carrier := 64 } = true
    ∧ pwmOut { running with cfg := configAlt, dutyAct := 64, carrier := 65 } = false
    ∧ pwmOut { running with cfg := configAlt, dutyAct := 255, carrier := 255 } = true := by
  decide

/-- R135: a stopped carrier leaves the pin at PWM_IDLE_LEVEL. -/
theorem test_pin_idle :
    pwmOut { State.reset with cfg := { resetConfig with pwmIdleLevel := true } } = true := by decide

/-! ## sine_lut_pwm_mapper -/

/-- The rows (p, W, duty_ref) hold. -/
def dutyRows (l : List (Word16 × Word16 × Duty)) : Bool :=
  l.all fun r => sineMap .dutyRef r.1 r.2.1 == r.2.2

/-- M1, M2, M3 to M18 (and P2 step 12). -/
theorem test_duty_low :
    dutyRows
      [(0, 10000, 128), (1, 10000, 128), (833, 10000, 191), (1250, 10000, 218),
       (2500, 10000, 255), (3750, 10000, 218), (5000, 10000, 128), (6250, 10000, 37),
       (7500, 10000, 0), (9999, 10000, 127), (10000, 10000, 128), (12500, 10000, 255),
       (65535, 10000, 85), (5, 1, 128), (1, 2, 128), (1, 3, 238), (2, 3, 17),
       (1, 4, 255), (3, 4, 0)] = true := by decide +kernel

/-- M19 to M27 and Y3. -/
theorem test_duty_high :
    dutyRows
      [(1, 12, 191), (5, 12, 191), (7, 12, 64), (11, 12, 64), (1, 8, 218), (5, 8, 37),
       (16384, 65535, 255), (49151, 65535, 0), (65534, 65535, 127), (417, 1667, 255),
       (3000, 3030, 120), (227, 2273, 202), (2500, 2273, 202), (5833, 10000, 64)] = true := by
  decide +kernel

/-- The L1 sets of M1, M3, M5, M9 and M13. -/
theorem test_duty_set :
    [(sineFloor 0 10000, sineCeil 0 10000),
      (sineFloor 833 10000, sineCeil 833 10000),
      (sineFloor 2500 10000, sineCeil 2500 10000),
      (sineFloor 7500 10000, sineCeil 7500 10000),
      (sineFloor 5535 10000, sineCeil 5535 10000)]
      = [(127, 128), (191, 192), (255, 255), (0, 0), (85, 86)] := by decide +kernel

/-- The L1 sets of M21, M22, M17, M19 and M25. -/
theorem test_duty_set_edges :
    [(sineFloor 16384 65535, sineCeil 16384 65535),
      (sineFloor 49151 65535, sineCeil 49151 65535),
      (sineFloor 1 3, sineCeil 1 3),
      (sineFloor 7 12, sineCeil 7 12),
      (sineFloor 3000 3030, sineCeil 3000 3030)]
      = [(254, 255), (0, 1), (237, 238), (63, 64), (119, 120)] := by decide +kernel

/-- M3, M5 and M19 of the L1 sets, each with the neighbour that the list names; R162 L2 for p = 10833. -/
theorem test_sineMap_conforming :
    sineMap (.conforming []) 833 10000 = 191 ∧ sineMap (.conforming [(833, 10000)]) 833 10000 = 192
    ∧ sineMap (.conforming [(833, 10000)]) 10833 10000 = 192
    ∧ sineMap (.conforming [(2500, 10000)]) 2500 10000 = 255
    ∧ sineMap (.conforming [(833, 10000)]) 7 12 = 63 := by decide +kernel

/-- Q1 and Q3. -/
theorem test_synStep :
    onNext (exec .synStep { running with phase := 2500, dutyAct := 7 })
      (fun t => t.dutyBuf == 255 && t.dutyAct == 7) = true
    ∧ onNext (exec .synStep { running with phase := 2500, wrap := 2273 }) (fun t => t.dutyBuf == 202) = true := by
  decide +kernel

/-- Q2. -/
theorem test_synStep_unprogrammed :
    onNext (exec .synStep { State.reset with dutyBuf := 9 })
      (fun t => t.dutyBuf == 9 && t.faults == [⟨.wrapZero, 0, 0xA00000⟩]) = true := by decide

/-! ## frequency_selector_mux -/

/-- F1 to F5. -/
theorem test_period :
    period ⟨1000000, 1⟩ ⟨100, 1⟩ = 10000 ∧ period ⟨1000000, 1⟩ ⟨600, 1⟩ = 1667
    ∧ period ⟨1000000, 1⟩ ⟨5999, 10⟩ = 1667 ∧ period ⟨1000000, 1⟩ ⟨6001, 10⟩ = 1666
    ∧ period ⟨1000000, 1⟩ ⟨440, 1⟩ = 2273 ∧ period ⟨1000000, 1⟩ ⟨16, 1⟩ = 62500 := by decide

/-- F5 to F8. -/
theorem test_period_edges :
    period ⟨1000000, 1⟩ ⟨15, 1⟩ = 66667 ∧ period ⟨1000000, 1⟩ ⟨1000000, 1⟩ = 1
    ∧ period ⟨1000000, 1⟩ ⟨2000000, 1⟩ = 1 ∧ period ⟨1000000, 1⟩ ⟨3000000, 1⟩ = 0
    ∧ period ⟨1000000, 1⟩ ⟨400000, 1⟩ = 3 ∧ period ⟨1000000, 1⟩ ⟨2000000, 131071⟩ = 65536 := by
  decide

/-- S1 and S2. -/
theorem test_selRead :
    onNext (exec .selRead (shows 0b011)) (fun t => t.rsp == 3 && t.rspValid) = true
    ∧ onNext (exec .selRead (shows 0b111)) (fun t => t.rsp == 7) = true := by decide

/-- S5 and S6. -/
theorem test_selLookup :
    ([0, 1, 2, 3, 4, 5, 6, 7] : List Code).map (periodTable resetConfig)
      = [50000, 3817, 3401, 3030, 2865, 2551, 2273, 2024]
    ∧ onNext (exec (.selLookup 7) running) (fun t => t.rsp == 2024 && t.wrap == 10000) = true := by
  decide

/-- S7. -/
theorem test_selApply :
    onNext (exec (.selApply 3) { running with phase := 3000, wrap := 50000 })
      (fun t => t.wrap == 3030 && t.phase == 3000 && t.ptRun) = true := by decide

/-- S3 and S4. -/
theorem test_selApplySw :
    onNext (exec .selApplySw (shows 0)) (fun t => t.wrap == 50000 && t.rsp == 0) = true
    ∧ onNext (exec .selApplySw (shows 0b110)) (fun t => t.wrap == 2273 && t.rsp == 6) = true := by
  decide

/-- S8. -/
theorem test_selector_in_v1 :
    onNext (exec .selRead stateV1) (fun t => t.faults == [⟨.illegalCommand, 0, 0xB00000⟩]) = true
    ∧ onNext (hostStep 0xE00000 stateV1) (fun t => t.faults == [⟨.illegalCommand, 1, 0xE00000⟩]) = true := by
  decide

/-- P2 step 8; R42: VARIANT 1 has no SwitchEnv. -/
theorem test_switches :
    (switchStep 0b011 State.reset).swS = 0b011 ∧ switchStep 0b011 stateV1 = stateV1 := by decide

/-- R33, R197: two stages, so two edges. -/
theorem test_synchroniser :
    onNext (performAll [.edge false none 5] State.reset) (fun t => t.swS == 0) = true
    ∧ onNext (performAll [.edge false none 5, .edge false none 1] State.reset) (fun t => t.swS == 5) = true := by
  decide

/-! ## NOP, faults, reset, same-edge ordering, the assembler -/

/-- K1. -/
theorem test_nop : exec .nop running = .next { running with rspValid := false } := rfl

/-- K4. -/
theorem test_illegal :
    onNext (hostStep 0x700100 State.reset)
      (fun t => t == { State.reset with cmdIndex := 1, faults := [⟨.illegalCommand, 1, 0x700100⟩] }) = true := by
  decide

/-- X1 and K5. -/
theorem test_reset :
    onNext (perform .reset { running with phase := 9, dutyBuf := 3, rsp := 5, faults := [⟨.wrapZero, 2, 0⟩] })
      (fun t => t == { State.reset with faults := [⟨.wrapZero, 2, 0⟩] }) = true := by decide

/-- R228: the result is the state right after the last command; R282: an edge with rst = 1 accepts none. -/
theorem test_end_of_run :
    onNext (observedResult { State.reset with inputs := [.hw .tick, .command 0x100000, .hw .tick] })
      (fun t => t == { State.reset with ptCfg := true, cmdIndex := 1, inputs := [.hw .tick] }) = true
    ∧ runLength [.hw .tick, .edge true (some 0x100000) 0] = 0 := by decide

/-- R283: PT_STOP's write wins over a TICK of the same edge. -/
theorem test_edge_stop_and_tick :
    ∀ k, onNext (perform (.edge false (some 0x400000) 0) { running with ptPre := 7, draws := k })
      (fun t => t.phase == Config.freePhase k && !t.ptRun) = true := fun k => by
  simp only [onNext, perform, clockEdge, edgeCommand, hostStep]
  simp [running, State.reset, State.launch, resetConfig, State.setPins, State.noResponse, State.accept,
    show decode .two 0x400000#24 = .cmd .ptStop by decide, exec, execPtStop, State.setPtRun,
    State.drawPhase, clocked, edgePhase]

/-- R102: PT_START clears PT_PRE at its edge, where the stages shift too (R282). -/
theorem test_edge_start :
    onNext (perform (.edge false (some 0x300000) 5) { shows 3 with ptCfg := true, wrap := 7, ptPre := 4 })
      (fun t => t.ptRun && t.ptPre == 0 && t.sync == [5, 0]) = true := by decide

/-- R283: PT_READ_PHASE reads PHASE from before the edge. -/
theorem test_edge_read_and_tick :
    onNext (perform (.edge false (some 0x500000) 0) { running with phase := 6, ptPre := 7 })
      (fun t => t.rsp == 6 && t.phase == 7 && t.rspValid) = true := by decide

/-- R283: the boundary loads the DUTY_BUF from before the edge. -/
theorem test_edge_duty_at_boundary :
    onNext (perform (.edge false (some 0x7000C8) 0) { running with carrier := 255, dutyBuf := 64 })
      (fun t => t.dutyAct == 64 && t.dutyBuf == 200 && t.carrier == 0) = true := by decide

/-- The words of R226, and of R224 and R225 as P1 lists them. -/
theorem test_assemble_boot :
    assemble resetConfig bootV2
      = some [.reset, .command 0x100000, .command 0x600000, .command 0xE00000, .command 0x300000,
          .command 0x800000]
    ∧ assemble configV1 (hostV1 [true, false])
      = some [.reset, .command 0x100000, .command 0x600000, .command 0x200683, .command 0x300000,
          .command 0x800000, .command 0xA00000, .command 0x400000, .command 0x900000] := by
  decide

/-- R80's own example with a comment, and P1 step 7. -/
theorem test_parse_line :
    parseLine
      ['S', 'E', 'L', '_', 'A', 'P', 'P', 'L', 'Y', ' ', '#', '0', 'b', '0', '1', '1', ' ',
       ';', ' ', 'f', '3']
      = some [.instr (.selApply 3)]
    ∧ parseLine ['@', 'T', 'I', 'C', 'K', ' ', '4', '1', '7'] = some [.atTick 417] := by decide

/-- R131: a wider value cannot be encoded; R80's example. -/
theorem test_parse_refuses :
    parseLine
      ['P', 'W', 'M', '_', 'S', 'E', 'T', '_', 'D', 'U', 'T', 'Y', ' ', '#', '2', '5', '6']
      = none
    ∧ parseLine
      ['P', 'W', 'M', '_', 'S', 'E', 'T', '_', 'D', 'U', 'T', 'Y', ' ', '#', '0', 'x', '4',
       '0']
      = some [.instr (.pwmSetDuty 64)] := by decide

/-! ## Witnesses: the hypotheses of the obligations can be met -/

/-- The machine after a free step, for the statements about `step`. -/
theorem step_reset : step State.reset = .next (freeStep State.reset) := if_pos (by decide)

theorem witness_DecodeOfEncodeIsTheCommand :
    Instr.wf .one (.ptSetWrap 65535) = true ∧ Instr.wf .one (.pwmSetDuty 255) = true
    ∧ Instr.wf .two (.selLookup 7) = true ∧ Instr.wf .two (.selApply 0) = true
    ∧ Instr.wf .one .nop = true := by decide

theorem witness_LegalWordIsTheCommandsOwn :
    decode .one 0x2000FF#24 = .cmd (.ptSetWrap 255) ∧ decode .two 0xD00007#24 = .cmd (.selApply 7) := by
  decide

theorem witness_IllegalWordsRaiseIllegalCommand :
    decode State.reset.cfg.variant 0xF00000#24 = .illegal .reservedOpcode
    ∧ decode stateV1.cfg.variant 0xB00000#24 = .illegal .variantGated := by decide

theorem witness_PseudoInstructionsExpand :
    (0 < freqV1.num ∧ 0 < freqV1.den ∧ 1 ≤ period (tickRate resetConfig) freqV1
      ∧ period (tickRate resetConfig) freqV1 ≤ 65535)
    ∧ (1 ≤ period (tickRate resetConfig) ⟨2000000, 1⟩ ∧ period (tickRate resetConfig) ⟨2000000, 1⟩ ≤ 65535)
    ∧ ¬ (1 ≤ period (tickRate resetConfig) ⟨3000000, 1⟩ ∧ period (tickRate resetConfig) ⟨3000000, 1⟩ ≤ 65535)
    ∧ ¬ (1 ≤ period (tickRate resetConfig) ⟨15, 1⟩ ∧ period (tickRate resetConfig) ⟨15, 1⟩ ≤ 65535)
    ∧ resetConfig.variant = .two ∧ configV1.variant = .one := by decide

theorem witness_StepRunsTheDecodedCommand :
    State.reset.cfg.wf = true ∧ (State.reset.withFetchWord 24 0x300000).inputs = .command 0x300000#24 :: []
    ∧ decode State.reset.cfg.variant 0x300000#24 = .cmd .ptStart := by decide

theorem witness_IllFormedConfigurationRefused :
    Config.wf { resetConfig with pwmPrescale := 0 } = false ∧ resetConfig.variant = .two
    ∧ configV1.variant = .one := by decide

theorem witness_EveryScheduledInputIsPerformed :
    State.reset.cfg.wf = true ∧ State.inputs { State.reset with inputs := [.reset] } = .reset :: [] := by decide

theorem witness_UnscheduledStepIsSomeAgents :
    State.reset.cfg.wf = true ∧ State.reset.inputs = [] := by decide

theorem witness_PtSetWrapWritesWrap : (1 : Word16) ≠ 0 ∧ (65535 : Word16) ≠ 0 := by decide

/-- One state for each clause: unconfigured, unprogrammed, stopped and running. -/
theorem witness_PtStartEnablesCounting :
    State.reset.ptCfg = false
    ∧ (State.ptCfg { State.reset with ptCfg := true } = true ∧ State.reset.wrap = 0)
    ∧ (State.ptRun { running with ptRun := false } = false ∧ running.ptCfg = true ∧ running.wrap ≠ 0)
    ∧ running.ptRun = true := by decide

theorem witness_PtStopLeavesPhaseOpen : running.ptRun = true ∧ State.reset.ptRun = false := by decide

/-- The last value below the wrap, the wrap itself, and the largest value. -/
theorem witness_TickCountsUpToWrap :
    running.cfg.wrapCompare = .ge ∧ running.ptRun = true
    ∧ running.wrap.toNat ≤ (9999 : Word16).toNat + 1 ∧ (9998 : Word16).toNat + 1 < running.wrap.toNat
    ∧ running.wrap.toNat ≤ (65535 : Word16).toNat + 1 := by decide

theorem witness_EqualityCompareCountsThroughTheTop :
    configAlt.wrapCompare = .eq ∧ running.ptRun = true ∧ running.wrap ≠ 0
    ∧ running.wrap.toNat ≤ (10000 : Word16).toNat ∧ running.wrap.toNat ≤ (65535 : Word16).toNat
    ∧ (9999 : Word16).toNat < running.wrap.toNat ∧ resetConfig.wrapCompare = .ge := by decide

theorem witness_CounterRepeatsEveryWrapTicks :
    running.ptRun = true ∧ running.phase.toNat < running.wrap.toNat
    ∧ (9999 : Word16).toNat < running.wrap.toNat := by decide

theorem witness_WrapWriteLeavesTheCycleRunning :
    running.cfg.wrapCompare = .ge ∧ running.ptRun = true ∧ (5000 : Word16) ≠ 0
    ∧ (4999 : Word16).toNat < (5000 : Word16).toNat ∧ (5000 : Word16).toNat ≤ (5000 : Word16).toNat
    ∧ running.cfg.variant = .two ∧ periodTable running.cfg 3 = 3030 ∧ periodTable running.cfg running.swS ≠ 0
    := by decide

theorem witness_PhaseStaysBelowWrap :
    running.cfg.wrapCompare = .ge ∧ running.ptRun = true ∧ running.wrap ≠ 0
    ∧ perform (.hw .tick) running = .next (tickStep running)
    ∧ running.phase.toNat < running.wrap.toNat ∧ (tickStep running).wrap = running.wrap
    ∧ (tickStep running).ptRun = true :=
  ⟨rfl, rfl, by decide, rfl, by decide, by decide, by decide⟩

theorem witness_PwmStartBeginsACarrierCycle :
    State.reset.pwmCfg = false
    ∧ (State.pwmCfg { State.reset with pwmCfg := true } = true ∧ State.reset.pwmRun = false)
    ∧ (running.pwmCfg = true ∧ running.pwmRun = true) := by decide

theorem witness_PwmStopGatesTheCarrier : State.reset.pwmRun = false := by decide

theorem witness_CarrierCountsAndLoadsAtTheBoundary :
    running.pwmRun = true ∧ State.carrier { running with carrier := 255 } = 255
    ∧ State.carrier { running with carrier := 254 } ≠ 255 := by decide

theorem witness_PinComparesCarrierWithDuty :
    State.reset.pwmRun = false ∧ running.pwmRun = true ∧ resetConfig.pwmCompare = .lt
    ∧ configAlt.pwmCompare = .le ∧ (63 : BitVec 8).toNat ≤ (64 : BitVec 8).toNat
    ∧ pwmOut { running with cfg := configAlt, dutyAct := 64, carrier := 64 } = true := by decide

theorem witness_PinIsHighForDutySteps : running.pwmRun = true := by decide

theorem witness_BufferedDutyWaitsForTheBoundary :
    running.pwmRun = true ∧ 255 < 256 - running.carrier.toNat ∧ 0 < 256 - (255 : BitVec 8).toNat := by decide

/-- A reset, a carrier boundary and a PWM_START, each of which changes DUTY_ACT. -/
theorem witness_DutyActChangesOnlyAtABoundary :
    onNext (perform .reset { running with dutyAct := 9 }) (fun t => t.dutyAct != 9) = true
    ∧ onNext (perform (.edge true none 0) { running with dutyAct := 9 }) (fun t => t.dutyAct != 9) = true
    ∧ onNext (perform (.hw .carrier) { running with carrier := 255, dutyBuf := 200 })
        (fun t => t.dutyAct != 0) = true
    ∧ onNext (perform (.command 0x800000) { running with pwmRun := false, dutyBuf := 200 })
        (fun t => t.dutyAct != 0) = true := by decide

/-- Any period but 0; the sine statements of R161 and R164 ask nothing else. -/
theorem witness_DutyRefIsTheRoundedSine : (1 : Word16) ≠ 0 ∧ (65535 : Word16) ≠ 0 := by decide

/-- The ideal value rounded down is a function that keeps the laws, and it is not `duty_ref`. -/
theorem witness_SineMapKeepsItsLaws :
    (65535 : Word16) ≠ 0
    ∧ ∃ f : Word16 → Word16 → Duty, ∀ p W : Word16, W ≠ 0 →
        (((f p W).toNat : ℤ) = ⌊idealDuty p.toNat W.toNat⌋
          ∨ ((f p W).toNat : ℤ) = ⌈idealDuty p.toNat W.toNat⌉)
        ∧ f p W = f (p % W) W := by
  refine ⟨by decide, fun p W => BitVec.ofNat 8 ⌊idealDuty p.toNat W.toNat⌋.toNat, fun p W h => ⟨.inl ?_, ?_⟩⟩
  · have h0 := Real.neg_one_le_sin (2 * Real.pi * p.toNat / W.toNat)
    have h1 := Real.sin_le_one (2 * Real.pi * p.toNat / W.toNat)
    have l : 0 ≤ ⌊idealDuty p.toNat W.toNat⌋ := Int.floor_nonneg.mpr (by unfold idealDuty; linarith)
    have u : ⌊idealDuty p.toNat W.toNat⌋ < 256 := Int.floor_lt.mpr (by unfold idealDuty; push_cast; linarith)
    simp only [BitVec.toNat_ofNat]
    omega
  · have hW : (W.toNat : ℝ) ≠ 0 := by simpa [BitVec.toNat_eq] using h
    have e : idealDuty p.toNat W.toNat = idealDuty (p % W).toNat W.toNat := by
      unfold idealDuty
      have hd : (p.toNat : ℝ) = ((p % W).toNat : ℝ) + (p.toNat / W.toNat : ℕ) * W.toNat := by
        rw [BitVec.toNat_umod, mul_comm]; exact_mod_cast (Nat.mod_add_div _ _).symm
      rw [show 2 * Real.pi * p.toNat / W.toNat
          = 2 * Real.pi * (p % W).toNat / W.toNat + (p.toNat / W.toNat : ℕ) * (2 * Real.pi) by
        rw [hd]; field_simp, Real.sin_add_nat_mul_two_pi]
    exact congrArg (fun x => BitVec.ofNat 8 ⌊x⌋.toNat) e

/-- W = 4 with p = 1, where the sine is not 0, and with p = 0, where it is. -/
theorem witness_HalfPeriodShiftInvertsTheSine :
    (4 : Word16) ≠ 0 ∧ (4 : Word16).toNat % 2 = 0
    ∧ (3 : Word16).toNat = ((1 : Word16).toNat + (4 : Word16).toNat / 2) % (4 : Word16).toNat
    ∧ Real.sin (2 * Real.pi * (1 : Word16).toNat / (4 : Word16).toNat) ≠ 0
    ∧ (2 : Word16).toNat = ((0 : Word16).toNat + (4 : Word16).toNat / 2) % (4 : Word16).toNat
    ∧ Real.sin (2 * Real.pi * (0 : Word16).toNat / (4 : Word16).toNat) = 0 := by
  refine ⟨by decide, by decide, by decide, ?_, by decide, by norm_num⟩
  rw [show (1 : Word16).toNat = 1 from rfl, show (4 : Word16).toNat = 4 from rfl,
    show 2 * Real.pi * ((1 : ℕ) : ℝ) / ((4 : ℕ) : ℝ) = Real.pi / 2 by push_cast; ring]
  simp

theorem witness_SineMapAtExactPoints :
    ((4 : Word16) ≠ 0 ∧ (4 : Word16).toNat % 4 = 0) ∧ (65532 : Word16).toNat % 4 = 0
    ∧ ((12 : Word16) ≠ 0 ∧ (12 : Word16).toNat % 12 = 0) ∧ (65532 : Word16).toNat % 12 = 0
    ∧ idealDuty (1 : Word16).toNat (4 : Word16).toNat = (255 : ℕ) := by
  refine ⟨by decide, by decide, by decide, by decide, ?_⟩
  rw [show (1 : Word16).toNat = 1 from rfl, show (4 : Word16).toNat = 4 from rfl, idealDuty,
    show 2 * Real.pi * ((1 : ℕ) : ℝ) / ((4 : ℕ) : ℝ) = Real.pi / 2 by push_cast; ring,
    Real.sin_pi_div_two]
  norm_num

theorem witness_SynStepWritesOneSample : running.wrap ≠ 0 ∧ State.reset.wrap = 0 := by decide

/-- The two ends of the usable frequencies at R = 1,000,000, and one beyond each. -/
theorem witness_PeriodRoundsHalfUp :
    0 < Freq.num ⟨1000000, 1⟩ ∧ 0 < Freq.den ⟨1000000, 1⟩ ∧ period ⟨1000000, 1⟩ ⟨2000000, 1⟩ = 1
    ∧ period ⟨1000000, 1⟩ ⟨2000001, 1⟩ = 0 ∧ period ⟨1000000, 1⟩ ⟨2000001, 131071⟩ = 65535
    ∧ period ⟨1000000, 1⟩ ⟨2000000, 131071⟩ = 65536 := by decide

theorem witness_PeriodNeverRisesWithFrequency :
    0 < Freq.num ⟨5999, 10⟩ ∧ 0 < Freq.den ⟨5999, 10⟩ ∧ Freq.toRat ⟨5999, 10⟩ < Freq.toRat ⟨600, 1⟩ := by
  refine ⟨by decide, by decide, ?_⟩
  norm_num [Freq.toRat]

theorem witness_TableHoldsUsablePeriods :
    resetConfig.wf = true ∧ resetConfig.variant = .two ∧ ∃ t, step State.reset = .next t :=
  ⟨by decide, rfl, _, step_reset⟩

/-- For the four commands of the selector and for SwitchEnv. -/
theorem witness_selector_variants :
    State.reset.cfg.variant = .two ∧ State.reset.cfg.wf = true ∧ stateV1.cfg.variant = .one := by decide

/-- Two stages with one later edge, one stage with none, and no stage. -/
theorem witness_SwitchLevelSeenAfterTheStages :
    State.reset.cfg.variant = .two
    ∧ State.reset.sync.length = ([(some 0x300000, 3)] : List (Option CmdWord × Code)).length + 1
    ∧ List.length (State.sync { State.reset with sync := [0] })
      = ([] : List (Option CmdWord × Code)).length + 1
    ∧ State.sync { State.reset with sync := [] } = [] := by decide

theorem witness_NopDoesNothing :
    BitVec.extractLsb' 20 4 (1 : CmdWord) = 0 ∧ (1 : CmdWord) ≠ 0
    ∧ BitVec.extractLsb' 20 4 (0x0FFFFF : CmdWord) = 0 := by decide

/-- One word for each kind of fault, and one that raises none. -/
theorem witness_FaultingCommandOnlyRecords :
    faultOf State.reset 0x200000 = some .wrapZero ∧ faultOf State.reset 0x300000 = some .unconfigured
    ∧ faultOf State.reset 0xF00000 = some .illegalCommand ∧ faultOf State.reset 0x100000 = none := by decide

theorem witness_FaultRecordsAreNeverRemoved : ∃ t, step State.reset = .next t := ⟨_, step_reset⟩

theorem witness_ResetGivesEveryRegisterItsValue :
    (Input.reset = .reset ∨ Input.reset = .edge true none 0)
    ∧ (Input.edge true (some 0x100000) 7 = .reset
      ∨ Input.edge true (some 0x100000) 7 = .edge true (some 0x100000) 7) := by decide

theorem witness_EveryStepKeepsTheInvariant :
    CoreInv State.reset ∧ CoreInv running ∧ ∃ t, step State.reset = .next t :=
  ⟨by decide, by decide, _, step_reset⟩

/-- A command that changes each register the statement names. -/
theorem witness_CommandsWriteOnlyTheirRegisters :
    onNext (exec (.ptSetWrap 7) State.reset) (fun t => t.wrap != 0) = true
    ∧ onNext (exec .ptConfig State.reset) (fun t => t.ptCfg) = true
    ∧ onNext (exec .ptStart { running with ptRun := false, ptPre := 3 }) (fun t => t.ptRun && t.ptPre != 3)
      = true
    ∧ onNext (exec (.pwmSetDuty 3) State.reset) (fun t => t.dutyBuf != 0) = true
    ∧ onNext (exec .pwmStart { running with pwmRun := false, carrier := 3, pwmPre := 1, dutyAct := 2 })
      (fun t => t.pwmRun && t.carrier != 3 && t.pwmPre != 1 && t.dutyAct != 2) = true
    ∧ onNext (exec .pwmConfig State.reset) (fun t => t.pwmCfg) = true
    ∧ onNext (exec .pwmStop running) (fun t => !t.pwmRun) = true := by decide

/-- PT_STOP changes PHASE in some state, whatever the free value is. -/
theorem witness_PtStop_changes_phase :
    ∃ t, exec .ptStop { running with phase := Config.freePhase 0 + 1 } = .next t
      ∧ t.phase ≠ Config.freePhase 0 + 1 :=
  ⟨_, rfl, by simp [running, State.reset, State.launch, State.setPtRun, State.drawPhase, State.noResponse]⟩

theorem witness_ResponseFollowsReadCommands :
    (∃ t, exec .ptConfig State.reset = .next t) ∧ Instr.isRead .ptConfig = false
    ∧ (∃ t, clockEdge false (some 0x500000) 0 State.reset = .next t)
    ∧ decode State.reset.cfg.variant 0x500000#24 = .cmd .ptReadPhase
    ∧ (∃ t, clockEdge false none 0 State.reset = .next t) :=
  ⟨⟨_, rfl⟩, rfl, ⟨_, rfl⟩, by decide, ⟨_, rfl⟩⟩

theorem witness_WriteOnlyRegistersNeverReachRsp :
    (∃ t, exec .ptReadPhase State.reset = .next t)
    ∧ ∃ t, exec .ptReadPhase { State.reset with wrap := 3, dutyBuf := 4, dutyAct := 5 } = .next t :=
  ⟨⟨_, rfl⟩, ⟨_, rfl⟩⟩

/-- Every form that the statement names. -/
theorem witness_ReadsAreSideEffectFree :
    State.reset.cfg.variant = .two ∧ running.cfg.variant = .two ∧ running.wrap ≠ 0
    ∧ (∃ t, exec (.ptSetWrap 7) State.reset = .next t) ∧ (∃ t, exec (.pwmSetDuty 7) State.reset = .next t)
    ∧ (∃ t, exec .synStep running = .next t) ∧ (∃ t, exec (.selApply 7) running = .next t)
    ∧ (∃ t, exec .selApplySw running = .next t) :=
  ⟨rfl, rfl, by decide, ⟨_, rfl⟩, ⟨_, rfl⟩, exec_next .synStep _, ⟨_, rfl⟩, ⟨_, rfl⟩⟩

theorem witness_EdgesDividedByThePrescalers :
    State.ptPre { running with ptPre := 7 } < running.cfg.ptPrescale
    ∧ running.pwmPre < running.cfg.pwmPrescale ∧ running.ptRun = true ∧ running.pwmRun = true
    ∧ State.reset.ptRun = false ∧ State.reset.pwmRun = false
    ∧ (State.ptRun { running with ptRun := false } = false ∧ running.ptCfg = true ∧ running.wrap ≠ 0
      ∧ State.pwmRun { running with pwmRun := false } = false ∧ running.pwmCfg = true) := by decide

theorem witness_ClockEdgeIsAnInterleaving :
    CoreInv { running with ptPre := 7 }
    ∧ (∃ t, clockEdge false (some 0x202710) 5 { running with ptPre := 7 } = .next t)
    ∧ tickDue { running with ptPre := 7 } = true ∧ carrierDue running = true :=
  ⟨by decide, perform_next (.edge false (some 0x202710) 5) _, by decide, by decide⟩

/-- The run in which only the phase counter ticks, forever. -/
def tickRun : Nat → State
  | 0 => running
  | n + 1 => tickStep (tickRun n)

theorem tickRun_running (n : Nat) : (tickRun n).ptRun = true := by
  induction n with
  | zero => rfl
  | succ n ih => unfold tickRun tickStep; rw [if_pos ih]; exact ih

theorem witness_FairCounterKeepsWrapping :
    IsRun (fun _ => .hw .tick) tickRun ∧ FairTicks (fun _ => .hw .tick) tickRun
    ∧ ∀ m, 0 ≤ m → (tickRun m).ptRun = true :=
  ⟨fun _ => rfl, fun n _ => ⟨n, le_rfl, tickRun_running n⟩, fun m _ => tickRun_running m⟩

/-- The run in which only the carrier steps, forever. -/
def carrierRun : Nat → State
  | 0 => running
  | n + 1 => carrierStep (carrierRun n)

theorem carrierRun_running (n : Nat) : (carrierRun n).pwmRun = true ∧ (carrierRun n).dutyBuf = 0 := by
  induction n with
  | zero => exact ⟨rfl, rfl⟩
  | succ n ih =>
    unfold carrierRun carrierStep
    rw [if_pos ih.1]
    split <;> exact ih

theorem witness_FairCarrierLoadsTheBuffer :
    IsRun (fun _ => .hw .carrier) carrierRun ∧ FairCarrier (fun _ => .hw .carrier) carrierRun
    ∧ ∀ m, 0 ≤ m → (carrierRun m).pwmRun = true ∧ (carrierRun m).dutyBuf = 0 :=
  ⟨fun _ => rfl, fun n _ => ⟨n, le_rfl, (carrierRun_running n).1⟩, fun m _ => carrierRun_running m⟩

/-- A run with a command, a rest with none, and a run that has an end. -/
theorem witness_RunEndsRightAfterItsLastCommand :
    State.reset.cfg.wf = true ∧ ¬ NoCommandLeft [.command 0x100000, .hw .tick]
    ∧ NoCommandLeft [.hw .tick, .reset, .edge true (some 0x100000) 0]
    ∧ ∃ t, EndOfRun { State.reset with inputs := [.command 0x100000] } t :=
  ⟨by decide, by decide, by decide, _, rfl⟩
end

/-! The family Scope (spec/00_scope.md R9, R13): what each check of a configuration says, what `step`
answers in each of its three branches, and the two obligations. -/

namespace Sys2Proof

theorem usablePeriod_iff {n : Nat} : usablePeriod n = true ↔ 1 ≤ n ∧ n ≤ 65535 := by
  simp [usablePeriod]

/-- The rates' part of R9. -/
theorem Config.ratesWf_iff {c : Config} :
    c.ratesWf = true ↔
      0 < c.fClk.num ∧ 0 < c.fClk.den ∧ 1 ≤ c.ptPrescale ∧ 1 ≤ c.pwmPrescale := by
  simp [Config.ratesWf, and_assoc]

/-- R9 for one frequency: positive, with a period in 1..65535. -/
theorem Config.freqWf_iff {c : Config} {f : Freq} :
    c.freqWf f = true ↔ 0 < f.num ∧ 0 < f.den
      ∧ 1 ≤ period (tickRate c) f ∧ period (tickRate c) f ≤ 65535 := by
  simp [Config.freqWf, usablePeriod_iff, and_assoc]

/-- The entries of FREQ_TABLE are the frequencies of the codes (R79). -/
theorem mem_freqTable_iff {c : Config} {f : Freq} :
    f ∈ c.freqTable.toList ↔ ∃ code : Code, tableFreq c code = f := by
  rw [Vector.mem_toList_iff, Vector.mem_iff_getElem]
  constructor
  · rintro ⟨n, hn, rfl⟩
    exact ⟨.ofFin ⟨n, hn⟩, rfl⟩
  · rintro ⟨code, rfl⟩
    exact ⟨code.toFin, code.toFin.isLt, rfl⟩

/-- VARIANT 2 checks the frequency of every code (R9, second point). -/
theorem Config.tableWf_iff_of_two {c : Config} (hv : c.variant = .two) :
    c.tableWf = true ↔ ∀ code : Code, c.freqWf (tableFreq c code) = true := by
  simp only [Config.tableWf, hv, List.all_eq_true, mem_freqTable_iff, forall_exists_index,
    forall_apply_eq_imp_iff]

/-- VARIANT 1 checks 600 Hz only (R9, third point). -/
theorem Config.tableWf_iff_of_one {c : Config} (hv : c.variant = .one) :
    c.tableWf = true ↔ 1 ≤ period (tickRate c) freqV1 ∧ period (tickRate c) freqV1 ≤ 65535 := by
  simp [Config.tableWf, hv, Config.freqWf_iff, freqV1]

theorem Config.wf_iff {c : Config} : c.wf = true ↔ c.ratesWf = true ∧ c.tableWf = true := by
  simp [Config.wf]

end Sys2Proof

namespace Sys2Proof.Machine

theorem step_of_not_wf {s : State} (hw : s.cfg.wf = false) : step s = .refused .illFormedConfig := by
  simp [step, hw]

/-- With nothing scheduled a free agent steps (log 6). -/
theorem step_nil {s : State} (hw : s.cfg.wf = true) (hi : s.inputs = []) :
    step s = .next (freeStep s) := by
  rw [step, if_pos hw, advance, hi]

/-- Settles O8: each check of the configuration says its point of R9, and the table is checked at
every code. -/
theorem illFormedConfigurationRefused : Obligations.IllFormedConfigurationRefused := by
  intro s
  refine ⟨?_, step_of_not_wf⟩
  rw [Config.wf_iff, Config.ratesWf_iff]
  cases hv : s.cfg.variant with
  | one => simp [Config.tableWf_iff_of_one hv]
  | two => simp [Config.tableWf_iff_of_two hv, Config.freqWf_iff]

/-- Settles O9: an input is performed after it has left the schedule, and performing it keeps what is
scheduled behind it. -/
theorem everyScheduledInputIsPerformed : Obligations.EveryScheduledInputIsPerformed := by
  intro s hw
  cases hs : s.inputs with
  | nil => exact ⟨freeStep s, step_nil hw hs, by simp⟩
  | cons i rest =>
    obtain ⟨t, ht⟩ := perform_next i (s.schedule rest)
    obtain ⟨-, hinputs, -⟩ := perform_keeps ht
    refine ⟨t, (step_cons hw hs).trans ht, ?_⟩
    rintro _ _ ⟨⟩
    exact ⟨ht, hinputs⟩

end Sys2Proof.Machine

/-! The family State (spec/10_state.md): what the commands of the host, the agents' steps and the clock
edges leave of each register, and the seven obligations. -/

namespace Sys2Proof

/-- A word decodes only as the command of its opcode (R73). -/
theorem opcodeOf_of_decodeOp {op : BitVec 4} {data : Word16} {i : Instr}
    (h : decodeOp op data = .cmd i) : opcodeOf i = op := by
  have hZ {j : Instr} (hj : formZ data j = .cmd i) : opcodeOf i = opcodeOf j :=
    congrArg opcodeOf (formZ_cmd hj).2
  unfold decodeOp at h
  split at h
  -- PT_SET_WRAP, PWM_SET_DUTY, SEL_LOOKUP and SEL_APPLY have an operand, and 0xF has no command.
  case h_3 => cases h; rfl
  case h_8 => obtain ⟨v, -, rfl⟩ := formD8_cmd h; rfl
  case h_13 => obtain ⟨v, -, rfl⟩ := formC3_cmd h; rfl
  case h_14 => obtain ⟨v, -, rfl⟩ := formC3_cmd h; rfl
  case h_16 => cases h
  all_goals exact hZ h

theorem gatedOp_opcodeOf (i : Instr) : gatedOp (opcodeOf i) = i.isSelector := by
  cases i <;> rfl

/-- A decoded command exists in its variant: VARIANT 1 gates the selector's opcodes (R74). -/
theorem wf_of_decode {v : Variant} {w : CmdWord} {i : Instr} (h : decode v w = .cmd i) :
    i.wf v = true := by
  unfold decode at h
  split_ifs at h with hz hF hgate
  rw [← opcodeOf_of_decodeOp h, gatedOp_opcodeOf] at hgate
  cases v with
  | one => simpa [Instr.wf] using hgate
  | two => rfl

/-- R191, R35: in VARIANT 2 a well-formed table holds the periods themselves, none of them cut. -/
theorem periodTable_toNat {c : Config} (hw : c.wf = true) (hv : c.variant = .two) (code : Code) :
    (periodTable c code).toNat = period (tickRate c) (tableFreq c code)
      ∧ 1 ≤ period (tickRate c) (tableFreq c code) := by
  obtain ⟨-, htable⟩ := Config.wf_iff.mp hw
  obtain ⟨-, -, hpos, hfits⟩ := Config.freqWf_iff.mp ((Config.tableWf_iff_of_two hv).mp htable code)
  exact ⟨by rw [periodTable, BitVec.toNat_ofNat, Nat.mod_eq_of_lt (by omega)], hpos⟩

end Sys2Proof

namespace Sys2Proof.Machine

/-! ### Steps and edges -/

/-- Every step keeps the parameters and the faults recorded before it, and records at most one. -/
theorem step_keeps {s t : State} (h : step s = .next t) :
    t.cfg = s.cfg ∧ ∃ new, t.faults = s.faults ++ new ∧ new.length ≤ 1 := by
  obtain ⟨-, ⟨-, rfl⟩ | ⟨i, rest, -, hp⟩⟩ := step_cases h
  · obtain ⟨hcfg, -, hfaults⟩ := hwStep_keeps (Config.freeAgent s.draws) s
    exact ⟨hcfg, [], by simpa [freeStep] using hfaults, by simp⟩
  · obtain ⟨hcfg, -, hfaults⟩ := perform_keeps hp
    exact ⟨hcfg, hfaults⟩

/-- Inversion of an edge's command: none, or a Host step (R282). -/
theorem edgeCommand_cases {cmd : Option CmdWord} {s t : State} (h : edgeCommand cmd s = .next t) :
    (cmd = none ∧ t = s) ∨ ∃ w, cmd = some w ∧ hostStep w s = .next t := by
  cases cmd with
  | none => exact .inl ⟨rfl, by simpa [edgeCommand] using h.symm⟩
  | some w => exact .inr ⟨w, rfl, h⟩

/-- Every list of inputs is performed to its end. -/
theorem performAll_next (l : List Input) (s : State) : ∃ t, performAll l s = .next t := by
  induction l generalizing s with
  | nil => exact ⟨s, rfl⟩
  | cons i rest ih =>
    obtain ⟨t, ht⟩ := perform_next i s
    simpa only [performAll, ht] using ih t

/-- A list of inputs begins with the first one, which is performed. -/
theorem performAll_cons {i : Input} {rest : List Input} {s u : State}
    (h : performAll (i :: rest) s = .next u) :
    ∃ t, perform i s = .next t ∧ performAll rest t = .next u := by
  obtain ⟨t, ht⟩ := perform_next i s
  exact ⟨t, ht, by simpa only [performAll, ht] using h⟩

/-! ### The commands' frames (R20 to R32) -/

/-- Settles O52: a recorded fault changes no register, and the effect of each command writes its own
registers only. -/
theorem commandsWriteOnlyTheirRegisters : Obligations.CommandsWriteOnlyTheirRegisters := by
  intro i s t h
  rcases exec_cases h with ⟨k, -, rfl⟩ | ⟨-, rfl⟩
  · simp
  · cases i with
    | ptStart => cases hr : s.ptRun <;> simp [effectOf, hr]
    | ptStop => cases hr : s.ptRun <;> simp [effectOf, hr]
    | pwmStart => cases hr : s.pwmRun <;> simp [effectOf, hr]
    | _ => simp [effectOf]

/-! ### RSP and rsp_valid (R32) -/

/-- Only a read command writes RSP. -/
theorem exec_rsp {i : Instr} {s t : State} (h : exec i s = .next t) (hi : i.isRead = false) :
    t.rsp = s.rsp := by
  rcases exec_cases h with ⟨k, -, rfl⟩ | ⟨-, rfl⟩
  · rfl
  · cases i with
    | ptReadPhase => cases hi
    | selRead => cases hi
    | selLookup => cases hi
    | selApplySw => cases hi
    | ptStart => cases hr : s.ptRun <;> simp [effectOf, hr]
    | ptStop => cases hr : s.ptRun <;> simp [effectOf, hr]
    | pwmStart => cases hr : s.pwmRun <;> simp [effectOf, hr]
    | _ => rfl

/-- A command's effect leaves rsp_valid at 1 exactly when the command is a read. -/
theorem effectOf_rspValid (i : Instr) (s : State) : (effectOf i s).rspValid = i.isRead := by
  cases i with
  | ptStart => cases hr : s.ptRun <;> simp [effectOf, hr, Instr.isRead]
  | ptStop => cases hr : s.ptRun <;> simp [effectOf, hr, Instr.isRead]
  | pwmStart => cases hr : s.pwmRun <;> simp [effectOf, hr, Instr.isRead]
  | _ => rfl

/-- A selector command exists in VARIANT 2 only (R42, R74). -/
theorem variant_two_of_wf {v : Variant} {i : Instr} (hi : i.isSelector = true)
    (hwf : i.wf v = true) : v = .two := by
  cases v with
  | one => simp [Instr.wf, hi] at hwf
  | two => rfl

/-- A read command that exists in its variant raises no fault (R104, R192, R193, R195). -/
theorem commandFault_of_isRead {i : Instr} {s : State} (hi : i.isRead = true)
    (hwf : i.wf s.cfg.variant = true) : commandFault i s = none := by
  cases i with
  | ptReadPhase => rfl
  | selRead => simp [commandFault, variant_two_of_wf rfl hwf]
  | selLookup code => simp [commandFault, variant_two_of_wf rfl hwf]
  | selApplySw => simp [commandFault, variant_two_of_wf rfl hwf]
  | _ => cases hi

/-- A command that exists in its variant, performed while rsp_valid is 0, leaves it at 1 exactly when
it is a read. -/
theorem exec_rspValid {i : Instr} {s t : State} (h : exec i s = .next t)
    (hwf : i.wf s.cfg.variant = true) (h0 : s.rspValid = false) : t.rspValid = i.isRead := by
  rcases exec_cases h with ⟨k, hk, rfl⟩ | ⟨-, rfl⟩
  · cases hi : i.isRead with
    | true => rw [commandFault_of_isRead hi hwf] at hk; cases hk
    | false => exact h0
  · exact effectOf_rspValid i s

/-- A Host step of a legal word performs its command (R223). -/
theorem hostStep_of_cmd {w : CmdWord} {s : State} {i : Instr}
    (hd : decode s.cfg.variant w = .cmd i) : hostStep w s = exec i s.accept := by
  rw [hostStep, hd]

/-- A Host step of an illegal word only records a fault (R221). -/
theorem hostStep_of_illegal {w : CmdWord} {s : State} {r : IllegalReason}
    (hd : decode s.cfg.variant w = .illegal r) : hostStep w s = performIllegal w s.accept := by
  rw [hostStep, hd]

/-- A command word performed while rsp_valid is 0 leaves it at 1 exactly when it is a read. -/
theorem hostStep_rspValid {w : CmdWord} {s t : State} (h : hostStep w s = .next t)
    (h0 : s.rspValid = false) :
    t.rspValid = true ↔ ∃ i, decode s.cfg.variant w = .cmd i ∧ i.isRead = true := by
  cases hd : decode s.cfg.variant w with
  | cmd i =>
    rw [hostStep_of_cmd hd] at h
    simp [exec_rspValid h (wf_of_decode hd) h0]
  | illegal r =>
    rw [hostStep_of_illegal hd] at h
    rw [raise_next h]
    simp [h0]

/-- A command word that is no read command leaves RSP. -/
theorem hostStep_rsp {w : CmdWord} {s t : State} (h : hostStep w s = .next t)
    (hw : ∀ i, decode s.cfg.variant w = .cmd i → i.isRead = false) : t.rsp = s.rsp := by
  rcases hostStep_cases h with ⟨k, rfl⟩ | ⟨i, hd, he⟩
  · rfl
  · exact exec_rsp (s := s.accept) he (hw i hd)

/-- Settles O53: rsp_valid is 0 when the edge's command is performed, only a read command that is
accepted raises it, and only such a command writes RSP. -/
theorem responseFollowsReadCommands : Obligations.ResponseFollowsReadCommands := by
  refine ⟨fun i s t => exec_rsp, fun cmd sw s t h => ?_, rfl, rfl⟩
  obtain ⟨hr, -⟩ | ⟨-, c, hc, rfl⟩ := clockEdge_cases h
  · cases hr
  obtain ⟨rfl, rfl⟩ | ⟨w, rfl, hw⟩ := edgeCommand_cases hc
  · simp
  · refine ⟨by simpa using hostStep_rspValid hw rfl, fun hread => ?_⟩
    simpa using hostStep_rsp hw (by simpa using fun i => hread w i rfl)

/-! ### PHASE stays below WRAP (R21) -/

/-- R105: under GE a tick ends below the period, wherever it began. -/
theorem nextPhase_ge_below {W : Word16} (p : Word16) (hW : W ≠ 0) :
    (nextPhase .ge W p).toNat < W.toNat := by
  have hpos : 0 < W.toNat := Nat.pos_of_ne_zero (by simpa [BitVec.toNat_eq] using hW)
  simp only [nextPhase]
  split
  · simpa using hpos
  · have := W.isLt
    simp
    omega

/-- A TICK, performed or not, keeps PHASE below WRAP, for both compares. -/
theorem tickStep_phase_below {s : State} (hp : s.phase.toNat < s.wrap.toNat) :
    (tickStep s).phase.toNat < s.wrap.toNat := by
  rw [tickStep_phase]
  split
  · rw [nextPhase_below _ _ _ hp]
    exact Nat.mod_lt _ (by omega)
  · exact hp

/-- What an edge's command leaves of PHASE. -/
theorem edgeCommand_phase {cmd : Option CmdWord} {s t : State} (h : edgeCommand cmd s = .next t) :
    t.phase = s.phase ∨ (s.ptRun = true ∧ t.ptRun = false) := by
  obtain ⟨-, rfl⟩ | ⟨w, -, hw⟩ := edgeCommand_cases h
  · exact .inl rfl
  · exact hostStep_phase hw

/-- Settles O20: PHASE is written by a TICK, which keeps it below WRAP, and by the inputs that leave
the counter stopped. -/
theorem phaseStaysBelowWrap : Obligations.PhaseStaysBelowWrap := by
  constructor
  · intro s hc hr hW
    simpa [hr, hc] using nextPhase_ge_below s.phase hW
  · intro i s t h hp hwrap hrun
    rw [hwrap]
    cases i with
    | command w =>
      obtain hphase | ⟨-, hstop⟩ := hostStep_phase h
      · rwa [hphase]
      · simp [hstop] at hrun
    | hw a =>
      obtain rfl : hwStep a s = t := by simpa [perform] using h
      cases a with
      | tick => exact tickStep_phase_below hp
      | carrier => simpa [hwStep] using hp
      | switches v => simpa [hwStep] using hp
    | reset =>
      obtain rfl : resetCore s = t := by simpa [perform] using h
      simp at hrun
    | edge rst cmd sw =>
      obtain ⟨-, rfl⟩ | ⟨-, c, hc, rfl⟩ := clockEdge_cases h
      · simp at hrun
      rw [clocked_phase, edgePhase]
      split
      · simpa using tickStep_phase_below (s := s.setPins sw) (by simpa using hp)
      · obtain hphase | ⟨-, hstop⟩ := edgeCommand_phase hc
        · simpa [hphase] using hp
        · rw [clocked_ptRun, hstop] at hrun
          cases hrun

/-! ### DUTY_ACT changes at a boundary only (R27) -/

/-- What a command word leaves of DUTY_ACT: a PWM_START of a stopped carrier loads it (R132). -/
theorem hostStep_dutyAct {w : CmdWord} {s t : State} (h : hostStep w s = .next t) :
    t.dutyAct = s.dutyAct ∨
      (t.dutyAct = s.dutyBuf ∧ t.carrier = 0 ∧ s.pwmRun = false ∧ t.pwmRun = true) := by
  obtain ⟨k, rfl⟩ | ⟨i, -, he⟩ := hostStep_cases h
  · exact .inl rfl
  · exact exec_dutyAct (s := s.accept) he

/-- What an edge's command leaves of DUTY_ACT. -/
theorem edgeCommand_dutyAct {cmd : Option CmdWord} {s t : State} (h : edgeCommand cmd s = .next t) :
    t.dutyAct = s.dutyAct ∨
      (t.dutyAct = s.dutyBuf ∧ t.carrier = 0 ∧ s.pwmRun = false ∧ t.pwmRun = true) := by
  obtain ⟨-, rfl⟩ | ⟨w, -, hw⟩ := edgeCommand_cases h
  · exact .inl rfl
  · exact hostStep_dutyAct hw

/-- A CARRIER_STEP that changes DUTY_ACT is the boundary, which loads DUTY_BUF (R134, R137). -/
theorem carrierStep_boundary {s : State} (h : (carrierStep s).dutyAct ≠ s.dutyAct) :
    (carrierStep s).dutyAct = s.dutyBuf ∧ (carrierStep s).carrier = 0
      ∧ s.pwmRun = true ∧ s.carrier = 255 := by
  have hb : s.pwmRun = true ∧ s.carrier = 255 := by
    by_contra hb
    exact h (by rw [carrierStep_dutyAct, if_neg hb])
  simp [hb]

/-- Settles O29: a command changes DUTY_ACT only by starting a stopped carrier, an agent's step or a
clock edge beside its command only by the CARRIER_STEP at 255. -/
theorem dutyActChangesOnlyAtABoundary : Obligations.DutyActChangesOnlyAtABoundary := by
  intro i s t h hne
  cases i with
  | command w =>
    obtain ⟨hact, hcarrier, hrun⟩ := (hostStep_dutyAct h).resolve_left hne
    exact .inr ⟨hact, hcarrier, .inr hrun⟩
  | hw a =>
    obtain rfl : hwStep a s = t := by simpa [perform] using h
    cases a with
    | tick => simp [hwStep] at hne
    | carrier =>
      obtain ⟨hact, hcarrier, hrun⟩ := carrierStep_boundary hne
      exact .inr ⟨hact, hcarrier, .inl hrun⟩
    | switches v => simp [hwStep] at hne
  | reset => exact .inl (.inl ⟨rfl, by simpa [perform] using h.symm⟩)
  | edge rst cmd sw =>
    obtain ⟨rfl, ht⟩ | ⟨rfl, c, hc, rfl⟩ := clockEdge_cases h
    · exact .inl (.inr ⟨cmd, sw, rfl, ht⟩)
    right
    rw [clocked_dutyAct, edgeDutyAct] at hne ⊢
    rw [clocked_carrier, edgeCarrier]
    cases hdue : carrierDue (s.setPins sw) with
    | true =>
      have hne' : (carrierStep (s.setPins sw)).dutyAct ≠ (s.setPins sw).dutyAct := by
        simpa [hdue] using hne
      obtain ⟨hact, hcarrier, -, h255⟩ := carrierStep_boundary hne'
      refine ⟨by simpa [hdue] using hact, by simpa [hdue] using hcarrier, .inl ⟨?_, ?_⟩⟩
      · simpa [performsCarrier] using hdue
      · simpa using h255
    | false =>
      have hne' : c.dutyAct ≠ (s.setPins sw).noResponse.dutyAct := by simpa [hdue] using hne
      obtain ⟨hact, hcarrier, hrun⟩ := (edgeCommand_dutyAct hc).resolve_left hne'
      exact ⟨by simpa [hdue] using hact, by simpa [hdue] using hcarrier, .inr (by simpa using hrun)⟩

/-! ### The parameters, and FAULTS (R35, R38) -/

/-- Settles O38: the table's periods are checked by R9 and fit 16 bits, and a step keeps the
parameters. -/
theorem tableHoldsUsablePeriods : Obligations.TableHoldsUsablePeriods := by
  refine ⟨fun c code hw hv => ?_, fun s t h => (step_keeps h).1⟩
  obtain ⟨huncut, hpos⟩ := periodTable_toNat hw hv code
  exact ⟨huncut, huncut.symm ▸ hpos⟩

/-- Settles O47: FAULTS is empty at launch, and every step keeps what is recorded. -/
theorem faultRecordsAreNeverRemoved : Obligations.FaultRecordsAreNeverRemoved :=
  ⟨rfl, fun _ _ h => (step_keeps h).2⟩

/-! ### The synchroniser (R33) -/

/-- In VARIANT 2 the pins are the switch inputs (R42). -/
theorem setPins_sw_of_two {s : State} (hv : s.cfg.variant = .two) (v : Code) :
    (s.setPins v).sw = v := by
  simp [State.setPins, hv]

/-- A level on the pins is in the stages after an edge: the first stage is the level and every later
one is the stage before it. -/
theorem clockEdge_sync_of_two {cmd : Option CmdWord} {v : Code} {s t : State}
    (hv : s.cfg.variant = .two) (h : clockEdge false cmd v s = .next t) :
    t.sw = v ∧ t.sync = shiftSync v s.sync := by
  simpa only [setPins_sw_of_two hv] using clockEdge_sync h

theorem runEdges_append (a b : List (Option CmdWord × Code)) :
    runEdges (a ++ b) = runEdges a ++ runEdges b := List.map_append

/-- Clock edges keep the number of stages. -/
theorem runEdges_sync_length {l : List (Option CmdWord × Code)} {s t : State}
    (h : performAll (runEdges l) s = .next t) : t.sync.length = s.sync.length := by
  induction l generalizing s with
  | nil =>
    obtain rfl : s = t := by simpa [performAll, runEdges] using h
    rfl
  | cons e l ih =>
    obtain ⟨u, hu, ht⟩ := performAll_cons h
    rw [ih ht, (clockEdge_sync hu).2, shiftSync_length]

/-- Inputs keep the parameters. -/
theorem performAll_cfg {l : List Input} {s t : State} (h : performAll l s = .next t) :
    t.cfg = s.cfg := by
  induction l generalizing s with
  | nil =>
    obtain rfl : s = t := by simpa [performAll] using h
    rfl
  | cons i l ih =>
    obtain ⟨u, hu, ht⟩ := performAll_cons h
    rw [ih ht, (perform_keeps hu).1]

/-- A shift puts the pins' level into the first stage, when there is one (R33). -/
theorem shiftSync_getElem?_zero (v : Code) {l : List Code} (hl : 0 < l.length) :
    (shiftSync v l)[0]? = some v := by
  simp [shiftSync, hl]

/-- A shift moves the level of a stage that is not the last to the next one (R33). -/
theorem shiftSync_getElem?_succ (v : Code) {l : List Code} {k : Nat} (hk : k + 1 < l.length) :
    (shiftSync v l)[k + 1]? = l[k]? := by
  simp [shiftSync, hk]

/-- Each clock edge moves a level one stage on, whatever it carries, until the last stage (R197). -/
theorem runEdges_move_stage {l : List (Option CmdWord × Code)} {s t : State} {k : Nat}
    (h : performAll (runEdges l) s = .next t) (hk : k + l.length < s.sync.length) :
    t.sync[k + l.length]? = s.sync[k]? := by
  induction l generalizing s k with
  | nil =>
    obtain rfl : s = t := by simpa [performAll, runEdges] using h
    rfl
  | cons e l ih =>
    obtain ⟨u, hu, ht⟩ := performAll_cons h
    have hsync := (clockEdge_sync hu).2
    rw [List.length_cons] at hk
    calc t.sync[k + (l.length + 1)]?
        = t.sync[k + 1 + l.length]? := by rw [Nat.add_right_comm, Nat.add_assoc]
      _ = u.sync[k + 1]? := ih ht (by rw [hsync, shiftSync_length]; omega)
      _ = s.sync[k]? := by rw [hsync, shiftSync_getElem?_succ _ (by omega)]

/-- A level on the pins is sw_s after the edge that takes it and one edge more for each further
stage (R33, R197). -/
theorem swS_of_runEdges_cons {s t : State} {cmd : Option CmdWord} {v : Code}
    {after : List (Option CmdWord × Code)} (hv : s.cfg.variant = .two)
    (hlen : s.sync.length = after.length + 1)
    (h : performAll (runEdges ((cmd, v) :: after)) s = .next t) : t.swS = v := by
  obtain ⟨u, hu, ht⟩ := performAll_cons h
  have hsync := (clockEdge_sync_of_two hv hu).2
  have hulen : u.sync.length = after.length + 1 := by rw [hsync, shiftSync_length, hlen]
  have hlast : t.sync.getLast? = some v := calc
    t.sync.getLast? = t.sync[0 + after.length]? := by
      rw [List.getLast?_eq_getElem?, runEdges_sync_length ht, hulen, Nat.add_sub_cancel,
        Nat.zero_add]
    _ = u.sync[0]? := runEdges_move_stage ht (by omega)
    _ = some v := by rw [hsync, shiftSync_getElem?_zero v (by omega)]
  simp [State.swS, hlast]

/-- With no stage the level on the pins is sw_s at once (R33). -/
theorem swS_of_clockEdge_nil {s t : State} {cmd : Option CmdWord} {v : Code}
    (hv : s.cfg.variant = .two) (hs : s.sync = []) (h : clockEdge false cmd v s = .next t) :
    t.swS = v := by
  obtain ⟨hsw, hsync⟩ := clockEdge_sync_of_two hv h
  simp [State.swS, hsw, hsync, hs, shiftSync]

/-- Settles O44: an edge shifts the stages whatever it carries, so a level moves one stage at each edge
and reaches the last one; edges before it matter to neither the parameters nor the number of stages. -/
theorem switchLevelSeenAfterTheStages : Obligations.SwitchLevelSeenAfterTheStages := by
  intro s cmd v before after hv
  obtain ⟨u, hu⟩ := performAll_next (runEdges before) s
  have huv : u.cfg.variant = .two := by rw [performAll_cfg hu, hv]
  have hulen := runEdges_sync_length hu
  refine ⟨?_, fun hlen => ?_, fun hnil => ?_⟩
  · obtain ⟨t, ht⟩ := perform_next (.edge false cmd v) s
    exact ⟨t, ht, clockEdge_sync_of_two hv ht⟩
  · obtain ⟨t, ht⟩ := performAll_next (runEdges ((cmd, v) :: after)) u
    refine ⟨t, ?_, swS_of_runEdges_cons huv (hulen.trans hlen) ht⟩
    rw [runEdges_append, performAll_append hu, ht]
  · obtain ⟨t, ht⟩ := perform_next (.edge false cmd v) u
    have hunil : u.sync = [] := by simpa [hnil] using hulen
    refine ⟨t, ?_, swS_of_clockEdge_nil huv hunil ht⟩
    rw [runEdges_append, performAll_append hu]
    simp [runEdges, performAll, ht]

end Sys2Proof.Machine

/-! The family Memory (spec/20_memory.md): what a read's answer depends on, and commands performed
twice. -/

namespace Sys2Proof.Machine

/-- A command that raises no fault has its effect. -/
theorem exec_of_commandFault_none {i : Instr} {s : State} (h : commandFault i s = none) :
    exec i s = .next (effectOf i s) := by
  rw [exec_eq, h]

/-! ### What a read returns (R62) -/

/-- Whether a read command faults depends on the parameters alone (R42, R74). -/
theorem commandFault_congr_of_isRead {i : Instr} {s s' : State} (hi : i.isRead = true)
    (hcfg : s'.cfg = s.cfg) : commandFault i s' = commandFault i s := by
  cases i with
  | ptReadPhase => rfl
  | selRead => simp only [commandFault, hcfg]
  | selLookup code => simp only [commandFault, hcfg]
  | selApplySw => simp only [commandFault, hcfg]
  | _ => cases hi

/-- A read command answers from the parameters, PHASE and the switches (R104, R192, R193, R195). -/
theorem effectOf_rsp_congr_of_isRead {i : Instr} {s s' : State} (hi : i.isRead = true)
    (hcfg : s'.cfg = s.cfg) (hphase : s'.phase = s.phase) (hswS : s'.swS = s.swS) :
    (effectOf i s').rsp = (effectOf i s).rsp := by
  cases i with
  | ptReadPhase => exact hphase
  | selRead => exact congrArg zext16 hswS
  | selLookup code => exact congrArg (periodTable · code) hcfg
  | selApplySw => exact congrArg zext16 hswS
  | _ => cases hi

/-- The RSP that a command leaves depends on RSP, the parameters, PHASE and the switches only. -/
theorem exec_rsp_congr {i : Instr} {s s' t t' : State} (hrsp : s'.rsp = s.rsp)
    (hcfg : s'.cfg = s.cfg) (hphase : s'.phase = s.phase) (hswS : s'.swS = s.swS)
    (h : exec i s = .next t) (h' : exec i s' = .next t') : t'.rsp = t.rsp := by
  cases hi : i.isRead with
  | false => rw [exec_rsp h hi, exec_rsp h' hi, hrsp]
  | true =>
    have hfault := commandFault_congr_of_isRead hi hcfg
    obtain ⟨k, hk, rfl⟩ | ⟨hk, rfl⟩ := exec_cases h <;>
      obtain ⟨k', hk', rfl⟩ | ⟨hk', rfl⟩ := exec_cases h'
    · exact hrsp
    · simp [hfault, hk] at hk'
    · simp [hfault, hk] at hk'
    · exact effectOf_rsp_congr_of_isRead hi hcfg hphase hswS

/-- Settles O54: WRAP, DUTY_BUF and DUTY_ACT are not among the registers that RSP depends on. -/
theorem writeOnlyRegistersNeverReachRsp : Obligations.WriteOnlyRegistersNeverReachRsp :=
  fun _ _ _ _ _ _ _ => exec_rsp_congr rfl rfl rfl rfl

/-! ### Commands performed twice (R55) -/

/-- In VARIANT 2 a command of the selector raises no fault (R74). -/
theorem commandFault_of_isSelector {i : Instr} {s : State} (hi : i.isSelector = true)
    (hv : s.cfg.variant = .two) : commandFault i s = none := by
  cases i with
  | selRead => simp [commandFault, hv]
  | selLookup code => simp [commandFault, hv]
  | selApply code => simp [commandFault, hv]
  | selApplySw => simp [commandFault, hv]
  | _ => cases hi

/-- A command that raises no fault, and whose effect neither makes it fault nor changes under a second
performance, gives on the state it gave that state. -/
theorem exec_again {i : Instr} {s t : State} (hf : commandFault i s = none)
    (hf' : commandFault i (effectOf i s) = commandFault i s)
    (heff : effectOf i (effectOf i s) = effectOf i s) (h : exec i s = .next t) :
    exec i t = .next t := by
  obtain rfl : effectOf i s = t := by simpa [exec_of_commandFault_none hf] using h
  rw [exec_of_commandFault_none (hf'.trans hf), heff]

/-- Settles O55: a read's effect is its response, and no command that writes WRAP or DUTY_BUF reads
the register it writes for its value. -/
theorem readsAreSideEffectFree : Obligations.ReadsAreSideEffectFree := by
  constructor
  · rintro i s (rfl | ⟨hv, rfl | ⟨c, rfl⟩⟩)
    · exact ⟨s.phase, rfl⟩
    · exact ⟨_, exec_of_commandFault_none (commandFault_of_isSelector rfl hv)⟩
    · exact ⟨_, exec_of_commandFault_none (commandFault_of_isSelector rfl hv)⟩
  · rintro i s t (⟨k, rfl, hk⟩ | ⟨d, rfl⟩ | ⟨rfl, hw⟩ | ⟨hv, ⟨c, rfl⟩ | rfl⟩)
    · exact exec_again (if_neg hk) rfl rfl
    · exact exec_again rfl rfl rfl
    · exact exec_again (if_neg hw) rfl rfl
    · exact exec_again (commandFault_of_isSelector rfl hv) rfl rfl
    · exact exec_again (commandFault_of_isSelector rfl hv) rfl rfl

end Sys2Proof.Machine

/-! The family Encoding (spec/30_encoding.md): the decoder inverts the encoder on the commands of a
variant, the legal words are counted by their commands, and the words of the pseudo-instructions. -/

namespace Sys2Proof

/-- Under a command's opcode, only the command's own operand decodes to it (R71). -/
theorem operandData_of_decodeOp {data : Word16} {i : Instr}
    (h : decodeOp (opcodeOf i) data = .cmd i) : operandData i = data := by
  cases i with
  | ptSetWrap ticks => cases h; rfl
  | pwmSetDuty value => obtain ⟨v, rfl, ⟨⟩⟩ := formD8_cmd h; rfl
  | selLookup code => obtain ⟨v, rfl, ⟨⟩⟩ := formC3_cmd h; rfl
  | selApply code => obtain ⟨v, rfl, ⟨⟩⟩ := formC3_cmd h; rfl
  | _ => exact (formZ_cmd h).1.symm

/-- Each opcode's data form reads back the operand it holds (R71, R73). -/
theorem decodeOp_operandData (i : Instr) : decodeOp (opcodeOf i) (operandData i) = .cmd i := by
  cases i with
  | pwmSetDuty value => exact formD8_setWidth value .pwmSetDuty
  | selLookup code => exact formC3_zext16 code .selLookup
  | selApply code => exact formC3_zext16 code .selApply
  | _ => rfl

/-- No command has the reserved opcode (R73). -/
theorem opcodeOf_ne_reserved (i : Instr) : opcodeOf i ≠ 0xF := by
  cases i <;> simp [opcodeOf]

/-- VARIANT 1 gates no command that it has (R74). -/
theorem not_gated_of_wf {v : Variant} {i : Instr} (h : i.wf v = true) :
    ¬ (gatedOp (opcodeOf i) && v == .one) = true := by
  rw [gatedOp_opcodeOf]
  cases v with
  | one => simpa [Instr.wf] using h
  | two => simp

/-- The checks of R77 all pass on the word of a command that the variant has. -/
theorem decode_encode {v : Variant} {i : Instr} (h : i.wf v = true) :
    decode v (encode i) = .cmd i := by
  obtain ⟨hop, hz, hdata⟩ := Laws.Encoding.fields i
  rw [decode, hop, hz, hdata, if_neg (not_not.mpr rfl), if_neg (opcodeOf_ne_reserved i),
    if_neg (not_gated_of_wf h), decodeOp_operandData]

/-- A word that decodes passed R77's checks: its z field is 0 and its opcode reads its data. -/
theorem fields_of_decode {v : Variant} {w : CmdWord} {i : Instr} (h : decode v w = .cmd i) :
    zField w = 0 ∧ decodeOp (opField w) (dataField w) = .cmd i := by
  unfold decode at h
  split_ifs at h with hz
  exact ⟨not_not.mp hz, h⟩

/-- A word that decodes holds the three fields of its command's word. -/
theorem encode_of_decode {v : Variant} {w : CmdWord} {i : Instr} (h : decode v w = .cmd i) :
    encode i = w := by
  obtain ⟨hz, hop⟩ := fields_of_decode h
  have hcode : opcodeOf i = opField w := opcodeOf_of_decodeOp hop
  rw [← hcode] at hop
  rw [encode, operandData_of_decodeOp hop, hcode, assembleWord_fields w hz]

/-- The decoder is the inverse of the encoder on the commands of the variant. -/
theorem decode_eq_cmd_iff {v : Variant} {w : CmdWord} {i : Instr} :
    decode v w = .cmd i ↔ encode i = w ∧ i.wf v = true := by
  constructor
  · exact fun h => ⟨encode_of_decode h, wf_of_decode h⟩
  · rintro ⟨rfl, hwf⟩
    exact decode_encode hwf

/-- Settles O2: the word's fields are the command's, and its data form reads the operand back. -/
theorem decodeOfEncodeIsTheCommand : Obligations.DecodeOfEncodeIsTheCommand :=
  fun _ _ => decode_encode

/-- Settles O3: what decodes was assembled from the opcode and operand of its command. -/
theorem legalWordIsTheCommandsOwn : Obligations.LegalWordIsTheCommandsOwn :=
  fun _ _ _ => decode_eq_cmd_iff.mp

/-- Settles O1: six words are what the encoder gives their commands, and two fail a check of R77. -/
theorem wordsOfTheOpcodeMapDecode : Obligations.WordsOfTheOpcodeMapDecode := by
  unfold Obligations.WordsOfTheOpcodeMapDecode
  simp only [decode_eq_cmd_iff]
  decide

/-! ### The legal words, counted (R77) -/

/-- No two commands have one word: VARIANT 2 has them all and decodes each from its word. -/
theorem encode_injective : Function.Injective encode := by
  intro i j h
  have hi : decode .two (encode i) = .cmd i := decode_encode rfl
  rw [h, decode_encode rfl] at hi
  exact (Decoded.cmd.inj hi).symm

theorem isLegal_iff {v : Variant} {w : CmdWord} :
    isLegal v w = true ↔ ∃ i : Instr, i.wf v = true ∧ encode i = w := by
  have hlegal : isLegal v w = true ↔ ∃ i, decode v w = .cmd i := by
    unfold isLegal
    cases decode v w <;> simp
  simp only [hlegal, decode_eq_cmd_iff, and_comm]

/-- The commands without an operand that both variants have. -/
def plainCommands : Finset Instr :=
  {.nop, .ptConfig, .ptStart, .ptStop, .ptReadPhase, .pwmConfig, .pwmStart, .pwmStop, .synStep}

/-- The commands that both variants have. -/
def baseCommands : Finset Instr :=
  plainCommands ∪ (Finset.univ.image .ptSetWrap ∪ Finset.univ.image .pwmSetDuty)

/-- The selector's commands (R74). -/
def selectorCommands : Finset Instr :=
  {.selRead, .selApplySw} ∪ (Finset.univ.image .selLookup ∪ Finset.univ.image .selApply)

theorem mem_baseCommands {i : Instr} : i ∈ baseCommands ↔ i.isSelector = false := by
  rw [baseCommands, Finset.mem_union, Finset.mem_union]
  cases i <;> simp [plainCommands, Instr.isSelector]

theorem mem_selectorCommands {i : Instr} : i ∈ selectorCommands ↔ i.isSelector = true := by
  rw [selectorCommands, Finset.mem_union, Finset.mem_union]
  cases i <;> simp [Instr.isSelector]

/-- An operand of `n` bits makes `2 ^ n` commands. -/
theorem card_image_operands {n : Nat} {mk : BitVec n → Instr} (h : Function.Injective mk) :
    (Finset.univ.image mk).card = 2 ^ n := by
  rw [Finset.card_image_of_injective _ h, Finset.card_univ, ← FinEnum.card_eq_fintypeCard,
    FinEnum.card_bitVec]

/-- The sizes of two disjoint sets of commands add up. The sizes stand as variables, so that the
kernel does not list the sets. -/
theorem card_union_eq_add {s t : Finset Instr} {m n : Nat} (h : ∀ i ∈ s, i ∉ t)
    (hs : s.card = m) (ht : t.card = n) : (s ∪ t).card = m + n := by
  rw [Finset.card_union_of_disjoint (Finset.disjoint_left.mpr h), hs, ht]

theorem card_baseCommands : baseCommands.card = 9 + (2 ^ 16 + 2 ^ 8) := by
  refine card_union_eq_add ?_ rfl (card_union_eq_add ?_
    (card_image_operands fun _ _ => Instr.ptSetWrap.inj)
    (card_image_operands fun _ _ => Instr.pwmSetDuty.inj))
  · simp [plainCommands]
  · simp

theorem card_selectorCommands : selectorCommands.card = 2 + (2 ^ 3 + 2 ^ 3) := by
  refine card_union_eq_add ?_ rfl (card_union_eq_add ?_
    (card_image_operands fun _ _ => Instr.selLookup.inj)
    (card_image_operands fun _ _ => Instr.selApply.inj))
  · simp
  · simp

/-- As many words are legal as the variant has commands. -/
theorem card_legal_words {v : Variant} {commands : Finset Instr}
    (h : ∀ i, i ∈ commands ↔ i.wf v = true) :
    (Finset.univ.filter fun w : CmdWord => isLegal v w = true).card = commands.card := by
  have hwords : (Finset.univ.filter fun w : CmdWord => isLegal v w = true)
      = commands.image encode := by
    ext w
    simp [isLegal_iff, h]
  rw [hwords, Finset.card_image_of_injective _ encode_injective]

/-- Settles O4: VARIANT 1 has the base commands, and VARIANT 2 the selector's commands as well. -/
theorem legalWordsCounted : Obligations.LegalWordsCounted := by
  constructor
  · refine (card_legal_words fun i => ?_).trans card_baseCommands
    simp [mem_baseCommands, Instr.wf]
  · refine (card_legal_words fun i => ?_).trans
      (card_union_eq_add (fun i hi => ?_) card_baseCommands card_selectorCommands)
    · rw [Finset.mem_union, mem_baseCommands, mem_selectorCommands]
      cases i.isSelector <;> simp [Instr.wf]
    · rw [mem_baseCommands] at hi
      simp [mem_selectorCommands, hi]

end Sys2Proof

namespace Sys2Proof.Machine

/-! ### The pseudo-instructions (R81) -/

/-- The word of PT_SET_WRAP holds the period itself when it fits 16 bits (R70, R73). -/
theorem encode_ptSetWrap {n : Nat} (hn : n ≤ 65535) :
    encode (.ptSetWrap (BitVec.ofNat 16 n)) = BitVec.ofNat 24 (0x200000 + n) := by
  apply BitVec.eq_of_toNat_eq
  rw [encode, assembleWord_toNat]
  simp only [opcodeOf, operandData, BitVec.toNat_ofNat, BitVec.ofNat_eq_ofNat]
  omega

/-- Settles O6: a positive frequency is accepted exactly when its period is usable, and the other
two expansions are fixed words. -/
theorem pseudoInstructionsExpand : Obligations.PseudoInstructionsExpand := by
  refine ⟨fun c f hnum hden => ⟨fun hper => ?_, fun hper => ?_⟩, fun c => rfl, fun c hv => ?_,
    fun c hv => ?_⟩
  · have hf : c.freqWf f = true := Config.freqWf_iff.mpr ⟨hnum, hden, hper⟩
    simp [lineInputs, expandPseudo, hf, encode_ptSetWrap hper.2]
  · have hf : ¬ c.freqWf f = true := fun h => hper (Config.freqWf_iff.mp h).2.2
    simp [lineInputs, expandPseudo, hf]
  · simp only [lineInputs, expandPseudo, hv]
    rfl
  · simp only [lineInputs, expandPseudo, hv, Option.map_none]

end Sys2Proof.Machine

/-! The family PhaseAccumulator (spec/40_phase_accumulator.md): the machine's invariant, the
counter's commands and ticks, and the clock edges that the prescalers divide. -/

namespace Sys2Proof

/-- R9, R191: in VARIANT 2 no entry of a well-formed PERIOD_TABLE is 0. -/
theorem periodTable_ne_zero {c : Config} (hw : c.wf = true) (hv : c.variant = .two) (code : Code) :
    periodTable c code ≠ 0 := by
  obtain ⟨huncut, hpos⟩ := periodTable_toNat hw hv code
  intro h0
  simp [h0] at huncut
  omega

/-- Both variants have every command but the selector's (R74). -/
theorem wf_of_not_isSelector {i : Instr} (hi : i.isSelector = false) (v : Variant) :
    i.wf v = true := by
  cases v <;> simp [Instr.wf, hi]

/-- Both variants decode a command that is not the selector's from its word (R73). -/
theorem decode_of_encode_eq {i : Instr} {w : CmdWord} (hi : i.isSelector = false)
    (hw : encode i = w) (v : Variant) : decode v w = .cmd i :=
  decode_eq_cmd_iff.mpr ⟨hw, wf_of_not_isSelector hi v⟩

end Sys2Proof

namespace Sys2Proof.Machine

/-! ### Every step keeps the invariant -/

/-- PT_START raises no fault exactly when the counter is configured and has a period (R102). -/
theorem commandFault_ptStart_eq_none {s : State} :
    commandFault .ptStart s = none ↔ s.ptCfg = true ∧ s.wrap ≠ 0 := by
  cases hc : s.ptCfg <;> simp [commandFault, hc]

/-- PWM_START raises no fault exactly when the carrier is configured (R132). -/
theorem commandFault_pwmStart_eq_none {s : State} :
    commandFault .pwmStart s = none ↔ s.pwmCfg = true := by
  cases hc : s.pwmCfg <;> simp [commandFault, hc]

/-- A selector command that raises no fault is performed in VARIANT 2 (R74). -/
theorem variant_two_of_commandFault {i : Instr} {s : State} (hi : i.isSelector = true)
    (h : commandFault i s = none) : s.cfg.variant = .two := by
  cases hv : s.cfg.variant with
  | two => rfl
  | one =>
    cases i with
    | selRead => simp [commandFault, hv] at h
    | selLookup code => simp [commandFault, hv] at h
    | selApply code => simp [commandFault, hv] at h
    | selApplySw => simp [commandFault, hv] at h
    | _ => cases hi

/-- No command clears PT_CFG (R23). -/
theorem exec_ptCfg {i : Instr} {s t : State} (h : exec i s = .next t) (hs : s.ptCfg = true) :
    t.ptCfg = true := by
  obtain ⟨-, -, hptCfg, -⟩ := commandsWriteOnlyTheirRegisters i s t h
  by_cases hsame : t.ptCfg = s.ptCfg
  · rw [hsame, hs]
  · exact (hptCfg hsame).2

/-- No command clears PWM_CFG (R29). -/
theorem exec_pwmCfg {i : Instr} {s t : State} (h : exec i s = .next t) (hs : s.pwmCfg = true) :
    t.pwmCfg = true := by
  obtain ⟨-, -, -, -, -, -, -, hpwmCfg, -⟩ := commandsWriteOnlyTheirRegisters i s t h
  by_cases hsame : t.pwmCfg = s.pwmCfg
  · rw [hsame, hs]
  · exact (hpwmCfg hsame).2

/-- No command writes 0 to WRAP: PT_SET_WRAP faults on it (R101), and no table entry is 0 (R191). -/
theorem exec_wrap_ne_zero {i : Instr} {s t : State} (hw : s.cfg.wf = true) (h : exec i s = .next t)
    (hs : s.wrap ≠ 0) : t.wrap ≠ 0 := by
  obtain ⟨-, hwrap, -⟩ := commandsWriteOnlyTheirRegisters i s t h
  by_cases hsame : t.wrap = s.wrap
  · rwa [hsame]
  obtain ⟨k, -, rfl⟩ | ⟨hf, rfl⟩ := exec_cases h
  · exact absurd rfl hsame
  obtain ⟨k, rfl⟩ | ⟨code, rfl⟩ | rfl := hwrap hsame
  · simpa [commandFault, effectOf] using hf
  · exact periodTable_ne_zero hw (variant_two_of_commandFault rfl hf) code
  · exact periodTable_ne_zero hw (variant_two_of_commandFault rfl hf) s.swS

/-- A command leaves the counter running when it ran, or when PT_START found it ready (R102). -/
theorem exec_ptRun {i : Instr} {s t : State} (h : exec i s = .next t) (ht : t.ptRun = true) :
    s.ptRun = true ∨ (s.ptCfg = true ∧ s.wrap ≠ 0) := by
  obtain ⟨-, -, -, hptRun, -⟩ := commandsWriteOnlyTheirRegisters i s t h
  by_cases hsame : t.ptRun = s.ptRun
  · exact .inl (hsame ▸ ht)
  obtain ⟨rfl, -⟩ | ⟨-, hstop⟩ := hptRun hsame
  · obtain ⟨k, -, rfl⟩ | ⟨hf, -⟩ := exec_cases h
    · exact absurd rfl hsame
    · exact .inr (commandFault_ptStart_eq_none.mp hf)
  · simp [hstop] at ht

/-- A command leaves the carrier running when it ran, or PWM_START found it configured (R132). -/
theorem exec_pwmRun {i : Instr} {s t : State} (h : exec i s = .next t) (ht : t.pwmRun = true) :
    s.pwmRun = true ∨ s.pwmCfg = true := by
  obtain ⟨-, -, -, -, -, -, -, -, hpwmRun, -⟩ := commandsWriteOnlyTheirRegisters i s t h
  by_cases hsame : t.pwmRun = s.pwmRun
  · exact .inl (hsame ▸ ht)
  obtain ⟨rfl, -⟩ | ⟨-, hstop⟩ := hpwmRun hsame
  · obtain ⟨k, -, rfl⟩ | ⟨hf, -⟩ := exec_cases h
    · exact absurd rfl hsame
    · exact .inr (commandFault_pwmStart_eq_none.mp hf)
  · simp [hstop] at ht

/-- Every command keeps the invariant: it starts a timer only when that is ready, takes nothing of a
running timer's readiness back, and gives a prescaler counter no value but 0. -/
theorem exec_coreInv {i : Instr} {s t : State} (hs : CoreInv s) (h : exec i s = .next t) :
    CoreInv t := by
  obtain ⟨hw, hcounter, hcarrier, hptPre, hpwmPre, hsync⟩ := hs
  obtain ⟨hcfg, -, hkeep, -⟩ := exec_keeps h
  refine ⟨hcfg ▸ hw, fun hrun => ?_, fun hrun => ?_, ?_, ?_, by rw [hkeep, hcfg, hsync]⟩
  · obtain ⟨hc, hwrap⟩ := (exec_ptRun h hrun).elim hcounter id
    exact ⟨exec_ptCfg h hc, exec_wrap_ne_zero hw h hwrap⟩
  · exact exec_pwmCfg h ((exec_pwmRun h hrun).elim hcarrier id)
  · rw [exec_ptPre h, hcfg]
    split <;> omega
  · rw [exec_pwmPre h, hcfg]
    split <;> omega

/-- A command word, legal or not, keeps the invariant. -/
theorem hostStep_coreInv {w : CmdWord} {s t : State} (hs : CoreInv s) (h : hostStep w s = .next t) :
    CoreInv t := by
  obtain ⟨k, rfl⟩ | ⟨i, -, he⟩ := hostStep_cases h
  · exact hs
  · exact exec_coreInv (s := s.accept) hs he

/-- An edge's command keeps the parameters (R35). -/
theorem edgeCommand_cfg {cmd : Option CmdWord} {s t : State} (h : edgeCommand cmd s = .next t) :
    t.cfg = s.cfg := by
  obtain ⟨-, rfl⟩ | ⟨w, -, hw⟩ := edgeCommand_cases h
  · rfl
  · exact (hostStep_keeps hw).1

/-- An edge's command keeps the invariant. -/
theorem edgeCommand_coreInv {cmd : Option CmdWord} {s t : State} (hs : CoreInv s)
    (h : edgeCommand cmd s = .next t) : CoreInv t := by
  obtain ⟨-, rfl⟩ | ⟨w, -, hw⟩ := edgeCommand_cases h
  · exact hs
  · exact hostStep_coreInv hs hw

/-- The agents write none of the invariant's registers but SYNC, whose length they keep. -/
theorem hwStep_coreInv (a : HwStep) {s : State} (hs : CoreInv s) : CoreInv (hwStep a s) := by
  cases a with
  | tick => simpa [CoreInv, hwStep] using hs
  | carrier => simpa [CoreInv, hwStep] using hs
  | switches v => simpa [CoreInv, hwStep] using hs

/-- A reset stops both timers and clears both prescaler counters (R270). -/
theorem resetCore_coreInv {s : State} (hs : CoreInv s) : CoreInv (resetCore s) := by
  obtain ⟨hw, -, -, hptPre, hpwmPre, -⟩ := hs
  refine ⟨hw, by simp, by simp, ?_, ?_, ?_⟩
  · exact Nat.zero_lt_of_lt hptPre
  · exact Nat.zero_lt_of_lt hpwmPre
  · simp

/-- A count that returns to 0 after its last value counts modulo the number of its values. -/
theorem wrapping_count_eq_mod {p n : Nat} (hp : p < n) :
    (if p = n - 1 then 0 else p + 1) = (p + 1) % n := by
  split
  · rw [show p + 1 = n by omega, Nat.mod_self]
  · rw [Nat.mod_eq_of_lt (by omega)]

/-- PT_PRE counts modulo the prescaler while the counter runs (R109). -/
theorem nextPtPre_of_running {s : State} (hr : s.ptRun = true) (hp : s.ptPre < s.cfg.ptPrescale) :
    nextPtPre s = (s.ptPre + 1) % s.cfg.ptPrescale := by
  rw [nextPtPre, if_pos hr, wrapping_count_eq_mod hp]

/-- PWM_PRE counts modulo the prescaler while the carrier runs (R136). -/
theorem nextPwmPre_of_running {s : State} (hr : s.pwmRun = true)
    (hp : s.pwmPre < s.cfg.pwmPrescale) :
    nextPwmPre s = (s.pwmPre + 1) % s.cfg.pwmPrescale := by
  rw [nextPwmPre, if_pos hr, wrapping_count_eq_mod hp]

/-- The clocked updates of an edge keep the invariant of the state that the command left: a running
timer's prescaler counter stays in its range, and a shift keeps the number of stages. -/
theorem clocked_coreInv {s c : State} (hs : CoreInv s) (hc : CoreInv c) (hcfg : c.cfg = s.cfg) :
    CoreInv (clocked s c) := by
  obtain ⟨-, -, -, hptPre, hpwmPre, hsync⟩ := hs
  obtain ⟨hw, hcounter, hcarrier, hptPre', hpwmPre', -⟩ := hc
  refine ⟨hw, hcounter, hcarrier, ?_, ?_, ?_⟩
  · rw [clocked_ptPre, clocked_cfg, edgePtPre]
    split
    · rw [nextPtPre_of_running ‹_› hptPre, hcfg]
      exact Nat.mod_lt _ (by omega)
    · exact hptPre'
  · rw [clocked_pwmPre, clocked_cfg, edgePwmPre]
    split
    · rw [nextPwmPre_of_running ‹_› hpwmPre, hcfg]
      exact Nat.mod_lt _ (by omega)
    · exact hpwmPre'
  · rw [clocked_sync, clocked_cfg, shiftSync_length, hcfg, hsync]

/-- Every input keeps the invariant. -/
theorem perform_coreInv {i : Input} {s t : State} (hs : CoreInv s) (h : perform i s = .next t) :
    CoreInv t := by
  cases i with
  | command w => exact hostStep_coreInv hs h
  | hw a =>
    obtain rfl : hwStep a s = t := by simpa [perform] using h
    exact hwStep_coreInv a hs
  | reset =>
    obtain rfl : resetCore s = t := by simpa [perform] using h
    exact resetCore_coreInv hs
  | edge rst cmd sw =>
    have hpins : CoreInv (s.setPins sw) := by simpa [CoreInv] using hs
    obtain ⟨-, rfl⟩ | ⟨-, c, hc, rfl⟩ := clockEdge_cases h
    · exact resetCore_coreInv hpins
    · have hleft : CoreInv c := edgeCommand_coreInv (s := (s.setPins sw).noResponse) hpins hc
      exact clocked_coreInv hpins hleft (by simp [edgeCommand_cfg hc])

/-- Settles O51: every input keeps the invariant, and so does the free agent's step when nothing is
scheduled. -/
theorem everyStepKeepsTheInvariant : Obligations.EveryStepKeepsTheInvariant := by
  intro s t hs h
  obtain ⟨-, ⟨-, rfl⟩ | ⟨i, rest, -, hp⟩⟩ := step_cases h
  · exact hwStep_coreInv _ hs
  · exact perform_coreInv (s := s.schedule rest) hs hp

/-! ### The commands of the counter (R100 to R104) -/

/-- A command that raises a fault only records it (R243). -/
theorem exec_of_commandFault_some {i : Instr} {s : State} {k : Fault}
    (h : commandFault i s = some k) :
    exec i s = .next { s with faults := s.faults ++ [⟨k, s.cmdIndex, encode i⟩] } := by
  rw [exec_eq, h]
  rfl

/-- Settles O11: PT_CONFIG raises no fault, and its effect is the flag. -/
theorem ptConfigSetsItsFlag : Obligations.PtConfigSetsItsFlag :=
  ⟨decode_of_encode_eq rfl (by decide), fun _ => ⟨false, exec_of_commandFault_none rfl⟩⟩

/-- Settles O12: the operand is the word's data field, and PT_SET_WRAP faults on 0 alone. -/
theorem ptSetWrapWritesWrap : Obligations.PtSetWrapWritesWrap := by
  refine ⟨fun v ticks => ?_, fun s ticks h => ?_, fun s => ?_⟩
  · have hword := encode_ptSetWrap (Nat.le_of_lt_succ ticks.isLt)
    rw [BitVec.ofNat_toNat, BitVec.setWidth_eq] at hword
    exact decode_of_encode_eq rfl hword v
  · exact ⟨false, exec_of_commandFault_none (if_neg h)⟩
  · exact exec_of_commandFault_some rfl

/-- Settles O13: the two faults exclude each other by PT_CFG, and the effect differs by PT_RUN. -/
theorem ptStartEnablesCounting : Obligations.PtStartEnablesCounting := by
  refine ⟨decode_of_encode_eq rfl (by decide), fun s hc => ?_, fun s hc hw => ?_,
    fun s hc hw hr => ⟨false, ?_⟩, fun s hc hw hr => ⟨false, ?_⟩⟩
  · exact exec_of_commandFault_some (by simp [commandFault, hc])
  · exact exec_of_commandFault_some (by simp [commandFault, hc, hw])
  · rw [exec_of_commandFault_none (commandFault_ptStart_eq_none.mpr ⟨hc, hw⟩), effectOf, if_pos hr]
    rfl
  · rw [exec_of_commandFault_none (commandFault_ptStart_eq_none.mpr ⟨hc, hw⟩), effectOf,
      if_neg (by simp [hr])]
    rfl

/-- A TICK of a running counter writes PHASE only. -/
theorem tickStep_of_running {s : State} (hr : s.ptRun = true) :
    tickStep s = { s with phase := nextPhase s.cfg.wrapCompare s.wrap s.phase } := if_pos hr

/-- A TICK of a stopped counter changes nothing (log 7). -/
theorem tickStep_of_stopped {s : State} (hr : s.ptRun = false) : tickStep s = s := by
  simp [tickStep, hr]

/-- Settles O14: PT_STOP draws PHASE of a running counter, whatever the drawn value is, and no TICK
changes it afterwards. -/
theorem ptStopLeavesPhaseOpen : Obligations.PtStopLeavesPhaseOpen := by
  refine ⟨decode_of_encode_eq rfl (by decide),
    fun s hr => ⟨Config.freePhase s.draws, s.draws + 1, false, ?_⟩, fun s hr => ⟨false, ?_⟩,
    fun _ => tickStep_of_stopped⟩
  · rw [exec_of_commandFault_none rfl, effectOf, if_pos hr]
    rfl
  · rw [exec_of_commandFault_none rfl, effectOf, if_neg (by simp [hr])]
    rfl

/-- Settles O15: PT_READ_PHASE answers PHASE itself. -/
theorem ptReadPhaseReturnsPhase : Obligations.PtReadPhaseReturnsPhase :=
  ⟨decode_of_encode_eq rfl (by decide), fun _ => exec_of_commandFault_none rfl⟩

/-! ### One tick (R105, R106) -/

/-- R105: under GE the tick at WRAP - 1 or above gives 0. -/
theorem nextPhase_ge_of_le {W p : Word16} (h : W.toNat ≤ p.toNat + 1) : nextPhase .ge W p = 0 :=
  if_pos h

/-- R105: under GE every tick below WRAP - 1 counts up. -/
theorem nextPhase_ge_of_lt {W p : Word16} (h : p.toNat + 1 < W.toNat) :
    nextPhase .ge W p = p + 1 := if_neg (by omega)

/-- R106: under EQ a tick counts up, through 65535 to 0, except at WRAP - 1. -/
theorem nextPhase_eq_of_ne {W p : Word16} (h : p.toNat + 1 ≠ W.toNat) :
    nextPhase .eq W p = p + 1 := if_neg h

/-- R106: the compares differ only above WRAP - 1. -/
theorem nextPhase_eq_eq_ge {W p : Word16} (h : p.toNat < W.toNat) :
    nextPhase .eq W p = nextPhase .ge W p := by
  by_cases htop : p.toNat + 1 = W.toNat
  · rw [nextPhase_ge_of_le htop.ge]
    exact if_pos htop
  · rw [nextPhase_eq_of_ne htop, nextPhase_ge_of_lt (by omega)]

/-- The sum of R105 as the word that PHASE holds. -/
theorem ofNat_succ_toNat (p : Word16) : BitVec.ofNat 16 (p.toNat + 1) = p + 1 :=
  BitVec.eq_of_toNat_eq (by simp)

/-- The sum of R106, modulo 65536, as the word that PHASE holds. -/
theorem ofNat_succ_toNat_mod (p : Word16) : BitVec.ofNat 16 ((p.toNat + 1) % 65536) = p + 1 :=
  BitVec.eq_of_toNat_eq (by simp)

/-- Settles O16: the two cases of R105, each with its frame. -/
theorem tickCountsUpToWrap : Obligations.TickCountsUpToWrap := by
  intro s hc hr
  rw [tickStep_of_running hr, hc]
  refine ⟨fun h => ?_, fun h => ?_⟩
  · rw [nextPhase_ge_of_le h]
  · rw [nextPhase_ge_of_lt h, ofNat_succ_toNat]

/-! ### Many ticks (R106 to R108) -/

/-- Ticks of a running counter iterate the next value of PHASE, all with one WRAP. -/
theorem ticks_phase {s : State} (hr : s.ptRun = true) (k : Nat) :
    (ticks k s).phase = (nextPhase s.cfg.wrapCompare s.wrap)^[k] s.phase := by
  induction k generalizing s with
  | zero => rfl
  | succ k ih => simp [ticks, ih, hr]

/-- R107: from a value below W, k ticks count k modulo W. -/
theorem iterate_nextPhase_toNat {c : WrapCompare} {W p : Word16} (hp : p.toNat < W.toNat)
    (k : Nat) :
    ((nextPhase c W)^[k] p).toNat = (p.toNat + k) % W.toNat := by
  induction k with
  | zero => exact (Nat.mod_eq_of_lt hp).symm
  | succ k ih =>
    have hbelow : ((nextPhase c W)^[k] p).toNat < W.toNat := ih ▸ Nat.mod_lt _ (by omega)
    rw [Function.iterate_succ_apply', nextPhase_below _ _ _ hbelow, ih, Nat.mod_add_mod,
      Nat.add_assoc]

/-- Settles O18: the counter iterates a tick that counts modulo WRAP. -/
theorem counterRepeatsEveryWrapTicks : Obligations.CounterRepeatsEveryWrapTicks := by
  intro s hr hp k
  rw [ticks_phase hr, iterate_nextPhase_toNat hp]

/-- R106: from WRAP or above, EQ misses the period and counts up to 65535. -/
theorem iterate_nextPhase_eq_toNat {W p : Word16} (hp : W.toNat ≤ p.toNat) {k : Nat}
    (hk : p.toNat + k < 65536) : ((nextPhase .eq W)^[k] p).toNat = p.toNat + k := by
  induction k with
  | zero => rfl
  | succ k ih =>
    have hprev : ((nextPhase .eq W)^[k] p).toNat = p.toNat + k := ih (by omega)
    rw [Function.iterate_succ_apply', nextPhase_eq_of_ne (by omega), BitVec.toNat_add, hprev]
    simp
    omega

/-- R106: the tick at 65535, above WRAP, brings EQ to 0. -/
theorem iterate_nextPhase_eq_top {W p : Word16} (hp : W.toNat ≤ p.toNat) :
    (nextPhase .eq W)^[65536 - p.toNat] p = 0 := by
  have hlt := p.isLt
  obtain ⟨k, hk⟩ : ∃ k, 65536 - p.toNat = k + 1 := ⟨65535 - p.toNat, by omega⟩
  have htop : ((nextPhase .eq W)^[k] p).toNat = 65535 := by
    rw [iterate_nextPhase_eq_toNat hp (by omega)]
    omega
  rw [hk, Function.iterate_succ_apply', nextPhase_eq_of_ne (by omega)]
  apply BitVec.eq_of_toNat_eq
  rw [BitVec.toNat_add, htop]
  rfl

/-- Settles O17: EQ is GE below WRAP, and from above it runs through 65535 before it is 0. -/
theorem equalityCompareCountsThroughTheTop : Obligations.EqualityCompareCountsThroughTheTop := by
  refine ⟨fun s hc hr hW => ?_, fun W p => nextPhase_eq_eq_ge,
    fun s hc hr hW hp => ⟨fun k hk => ?_, ?_⟩, fun s hc hr hp => ?_⟩
  · have hpos : s.wrap.toNat ≠ 0 := by simpa [BitVec.toNat_eq] using hW
    rw [tickStep_of_running hr, hc]
    split
    · rw [nextPhase_eq_eq_ge (by omega), nextPhase_ge_of_le (by omega)]
    · rw [nextPhase_eq_of_ne (by omega), ofNat_succ_toNat_mod]
  · rw [ticks_phase hr, hc, iterate_nextPhase_eq_toNat hp (by omega)]
  · rw [ticks_phase hr, hc, iterate_nextPhase_eq_top hp]
  · rw [ticks_phase hr, hc, Function.iterate_one, nextPhase_ge_of_le (by omega)]

/-- R108: the three commands that write a period write WRAP and nothing else of the counter. -/
theorem exec_writes_period {i : Instr} {s : State} {w : Word16} (hw : w ≠ 0)
    (hi : i = .ptSetWrap w
      ∨ (s.cfg.variant = .two ∧ ∃ code, i = .selApply code ∧ w = periodTable s.cfg code)
      ∨ (s.cfg.variant = .two ∧ i = .selApplySw ∧ w = periodTable s.cfg s.swS)) :
    ∃ t, exec i s = .next t
      ∧ t.wrap = w ∧ t.phase = s.phase ∧ t.ptRun = s.ptRun ∧ t.cfg = s.cfg := by
  refine ⟨effectOf i s, ?_⟩
  obtain rfl | ⟨hv, code, rfl, rfl⟩ | ⟨hv, rfl, rfl⟩ := hi
  · exact ⟨exec_of_commandFault_none (if_neg hw), rfl, rfl, rfl, rfl⟩
  · exact ⟨exec_of_commandFault_none (commandFault_of_isSelector rfl hv), rfl, rfl, rfl, rfl⟩
  · exact ⟨exec_of_commandFault_none (commandFault_of_isSelector rfl hv), rfl, rfl, rfl, rfl⟩

/-- Settles O19: the counter runs on from its PHASE with the new period, and a PHASE that is already
past it is 0 at the next tick. -/
theorem wrapWriteLeavesTheCycleRunning : Obligations.WrapWriteLeavesTheCycleRunning := by
  intro i s w hc hr hw hi
  obtain ⟨t, ht, rfl, hphase, hrun, hcfg⟩ := exec_writes_period hw hi
  rw [hr] at hrun
  refine ⟨t, ht, rfl, hphase, hrun, fun hp k => ?_, fun hp k => ?_⟩
  · rw [ticks_phase hrun, hphase, iterate_nextPhase_toNat hp]
  · have hpos : t.wrap.toNat ≠ 0 := by simpa [BitVec.toNat_eq] using hw
    rw [ticks_phase hrun, hphase, hcfg, hc, Function.iterate_succ_apply,
      nextPhase_ge_of_le (by omega), iterate_nextPhase_toNat (by simp; omega)]
    simp

/-! ### Clock edges divided by a prescaler (R109, R136) -/

/-- A count that goes one up modulo `n` passes from its last value to 0 and to the next quotient. -/
theorem succ_div_mod {n : Nat} (hn : 0 < n) (a : Nat) :
    (a + 1) / n = a / n + (if a % n = n - 1 then 1 else 0)
      ∧ (a + 1) % n = if a % n = n - 1 then 0 else a % n + 1 := by
  have hlt := Nat.mod_lt a hn
  have hdiv := Nat.mod_add_div a n
  refine (Nat.div_mod_unique hn).mpr ⟨?_, by split <;> omega⟩
  rw [Nat.mul_add]
  split <;> omega

/-- One clock edge of a running timer: its prescaler counts to `n - 1`, and at that count the edge
performs the timer's step `f`. -/
def dividedEdge {α : Type} (n : Nat) (f : α → α) (x : Nat × α) : Nat × α :=
  (if x.1 = n - 1 then 0 else x.1 + 1, if x.1 = n - 1 then f x.2 else x.2)

/-- `k` edges behind a prescaler of `n` perform one step for each `n` counts. -/
theorem iterate_dividedEdge {α : Type} {n p : Nat} (hp : p < n) (f : α → α) (a : α) (k : Nat) :
    (dividedEdge n f)^[k] (p, a) = ((p + k) % n, f^[(p + k) / n] a) := by
  induction k with
  | zero => simp [Nat.mod_eq_of_lt hp, Nat.div_eq_of_lt hp]
  | succ k ih =>
    obtain ⟨hdiv, hmod⟩ := succ_div_mod (Nat.zero_lt_of_lt hp) (p + k)
    rw [Function.iterate_succ_apply', ih, ← Nat.add_assoc, hdiv, hmod, dividedEdge]
    split
    · rw [Function.iterate_succ_apply']
    · rfl

/-- The state after a clock edge with rst = 0 and no command. -/
def idleEdge (v : Code) (s : State) : State := clocked (s.setPins v) (s.setPins v).noResponse

/-- The state after clock edges with rst = 0, no command and the given switch levels. -/
def afterIdleEdges (levels : List Code) (s : State) : State :=
  levels.foldl (fun u v => idleEdge v u) s

theorem performAll_idleEdges (levels : List Code) (s : State) :
    performAll (idleEdges levels) s = .next (afterIdleEdges levels s) := by
  induction levels generalizing s with
  | nil => rfl
  | cons v levels ih => exact ih (idleEdge v s)

/-- The registers that decide how the timers step, none of which an idle edge writes. -/
def SameSettings (s u : State) : Prop :=
  u.cfg = s.cfg ∧ u.wrap = s.wrap ∧ u.ptRun = s.ptRun ∧ u.dutyBuf = s.dutyBuf ∧ u.pwmRun = s.pwmRun

theorem idleEdge_sameSettings {s u : State} (h : SameSettings s u) (v : Code) :
    SameSettings s (idleEdge v u) := by
  simpa [SameSettings, idleEdge] using h

/-- What each idle edge does to some registers, under the settings of `s`, the edges iterate. -/
theorem afterIdleEdges_view {β : Type} {view : State → β} {f : β → β} {s : State}
    (hview : ∀ u v, SameSettings s u → view (idleEdge v u) = f (view u)) (levels : List Code) :
    view (afterIdleEdges levels s) = f^[levels.length] (view s) := by
  suffices h : ∀ u, SameSettings s u →
      view (afterIdleEdges levels u) = f^[levels.length] (view u) from h s ⟨rfl, rfl, rfl, rfl, rfl⟩
  induction levels with
  | nil => exact fun _ _ => rfl
  | cons v levels ih =>
    intro u hu
    rw [List.length_cons, Function.iterate_succ_apply, ← hview u v hu]
    exact ih _ (idleEdge_sameSettings hu v)

/-- What no idle edge changes, under the settings of `s`, the edges leave. -/
theorem afterIdleEdges_view_eq {β : Type} {view : State → β} {s : State}
    (hview : ∀ u v, SameSettings s u → view (idleEdge v u) = view u) (levels : List Code) :
    view (afterIdleEdges levels s) = view s := by
  rw [afterIdleEdges_view (f := id) hview levels, Function.iterate_id, id]

/-- PT_PRE and PHASE. -/
def counterView (s : State) : Nat × Word16 := (s.ptPre, s.phase)

/-- PWM_PRE, CARRIER and DUTY_ACT. -/
def carrierView (s : State) : Nat × BitVec 8 × Duty := (s.pwmPre, s.carrier, s.dutyAct)

/-- CARRIER and DUTY_ACT after a CARRIER_STEP while DUTY_BUF holds `buf` (R134). -/
def nextCarrier (buf : Duty) (x : BitVec 8 × Duty) : BitVec 8 × Duty :=
  (x.1 + 1, if x.1 = 255 then buf else x.2)

/-- CARRIER steps of a running carrier iterate its next value, all with one DUTY_BUF. -/
theorem carrierSteps_carrier_dutyAct {s : State} (hr : s.pwmRun = true) (k : Nat) :
    ((carrierSteps k s).carrier, (carrierSteps k s).dutyAct)
      = (nextCarrier s.dutyBuf)^[k] (s.carrier, s.dutyAct) := by
  induction k generalizing s with
  | zero => rfl
  | succ k ih => simp [carrierSteps, ih, hr, nextCarrier]

/-- R109: an idle edge of a running counter. -/
theorem idleEdge_counter_of_running {s : State} (hr : s.ptRun = true) (v : Code) :
    counterView (idleEdge v s)
      = dividedEdge s.cfg.ptPrescale (nextPhase s.cfg.wrapCompare s.wrap) (counterView s) := by
  by_cases hlast : s.ptPre = s.cfg.ptPrescale - 1 <;>
    simp [counterView, dividedEdge, idleEdge, edgePtPre, nextPtPre, edgePhase, tickDue, hr, hlast]

/-- R109: a stopped counter and its prescaler hold. -/
theorem idleEdge_counter_of_stopped {s : State} (hr : s.ptRun = false) (v : Code) :
    counterView (idleEdge v s) = counterView s := by
  simp [counterView, idleEdge, edgePtPre, edgePhase, tickDue, hr]

/-- R136: an idle edge of a running carrier. -/
theorem idleEdge_carrier_of_running {s : State} (hr : s.pwmRun = true) (v : Code) :
    carrierView (idleEdge v s)
      = dividedEdge s.cfg.pwmPrescale (nextCarrier s.dutyBuf) (carrierView s) := by
  by_cases hlast : s.pwmPre = s.cfg.pwmPrescale - 1 <;>
    simp [carrierView, dividedEdge, idleEdge, edgePwmPre, nextPwmPre, edgeCarrier, edgeDutyAct,
      carrierDue, nextCarrier, hr, hlast]

/-- R136: a stopped carrier and its prescaler hold. -/
theorem idleEdge_carrier_of_stopped {s : State} (hr : s.pwmRun = false) (v : Code) :
    carrierView (idleEdge v s) = carrierView s := by
  simp [carrierView, idleEdge, edgePwmPre, edgeCarrier, edgeDutyAct, carrierDue, hr]

/-- R109: n idle edges of a running counter perform (PT_PRE + n) / PT_PRESCALE ticks. -/
theorem afterIdleEdges_counter_of_running {s : State} (hp : s.ptPre < s.cfg.ptPrescale)
    (hr : s.ptRun = true) (levels : List Code) :
    counterView (afterIdleEdges levels s) =
      ((s.ptPre + levels.length) % s.cfg.ptPrescale,
        (ticks ((s.ptPre + levels.length) / s.cfg.ptPrescale) s).phase) := by
  rw [ticks_phase hr, ← iterate_dividedEdge hp]
  refine afterIdleEdges_view (fun u v hu => ?_) levels
  obtain ⟨hcfg, hwrap, hrun, -⟩ := hu
  rw [idleEdge_counter_of_running (hrun.trans hr), hcfg, hwrap]

theorem afterIdleEdges_counter_of_stopped {s : State} (hr : s.ptRun = false) (levels : List Code) :
    counterView (afterIdleEdges levels s) = counterView s := by
  refine afterIdleEdges_view_eq (fun u v hu => ?_) levels
  obtain ⟨-, -, hrun, -⟩ := hu
  exact idleEdge_counter_of_stopped (hrun.trans hr) v

/-- R136: n idle edges of a running carrier perform (PWM_PRE + n) / PWM_PRESCALE steps. -/
theorem afterIdleEdges_carrier_of_running {s : State} (hp : s.pwmPre < s.cfg.pwmPrescale)
    (hr : s.pwmRun = true) (levels : List Code) :
    carrierView (afterIdleEdges levels s) =
      ((s.pwmPre + levels.length) % s.cfg.pwmPrescale,
        (carrierSteps ((s.pwmPre + levels.length) / s.cfg.pwmPrescale) s).carrier,
        (carrierSteps ((s.pwmPre + levels.length) / s.cfg.pwmPrescale) s).dutyAct) := by
  rw [carrierSteps_carrier_dutyAct hr, ← iterate_dividedEdge hp]
  refine afterIdleEdges_view (fun u v hu => ?_) levels
  obtain ⟨hcfg, -, -, hbuf, hrun⟩ := hu
  rw [idleEdge_carrier_of_running (hrun.trans hr), hcfg, hbuf]

theorem afterIdleEdges_carrier_of_stopped {s : State} (hr : s.pwmRun = false) (levels : List Code) :
    carrierView (afterIdleEdges levels s) = carrierView s := by
  refine afterIdleEdges_view_eq (fun u v hu => ?_) levels
  obtain ⟨-, -, -, -, hrun⟩ := hu
  exact idleEdge_carrier_of_stopped (hrun.trans hr) v

/-! ### The prescalers at an edge that carries a command (R102, R132, R282) -/

/-- Inversion of a Host step by its word: the command that the word is the one word of, or a fault's
record where the word is no command's. -/
theorem hostStep_cases_encode {w : CmdWord} {s t : State} (h : hostStep w s = .next t) :
    (∃ i, encode i = w ∧ exec i s.accept = .next t) ∨
    ((∀ i, i.wf s.cfg.variant = true → encode i ≠ w)
      ∧ t = { s.accept with faults := s.faults ++ [⟨.illegalCommand, s.cmdIndex + 1, w⟩] }) := by
  cases hd : decode s.cfg.variant w with
  | cmd i => exact .inl ⟨i, encode_of_decode hd, hostStep_of_cmd hd ▸ h⟩
  | illegal r =>
    refine .inr ⟨fun i hwf hi => ?_, ?_⟩
    · rw [← hi, decode_encode hwf] at hd
      cases hd
    · rw [hostStep_of_illegal hd] at h
      exact raise_next h

/-- What a command word leaves of a stopped counter's PT_PRE (R102). -/
theorem hostStep_ptPre_of_stopped {w : CmdWord} {s t : State} (hr : s.ptRun = false)
    (h : hostStep w s = .next t) :
    t.ptPre = if w = 0x300000#24 ∧ s.ptCfg = true ∧ s.wrap ≠ 0 then 0 else s.ptPre := by
  have hword : encode .ptStart = 0x300000#24 := by decide
  obtain ⟨i, rfl, he⟩ | ⟨hnone, rfl⟩ := hostStep_cases_encode h
  · simpa [← hword, encode_injective.eq_iff, hr] using exec_ptPre he
  · simp [← hword, (hnone .ptStart (wf_of_not_isSelector rfl _)).symm]

/-- What a command word leaves of a stopped carrier's PWM_PRE (R132). -/
theorem hostStep_pwmPre_of_stopped {w : CmdWord} {s t : State} (hr : s.pwmRun = false)
    (h : hostStep w s = .next t) :
    t.pwmPre = if w = 0x800000#24 ∧ s.pwmCfg = true then 0 else s.pwmPre := by
  have hword : encode .pwmStart = 0x800000#24 := by decide
  obtain ⟨i, rfl, he⟩ | ⟨hnone, rfl⟩ := hostStep_cases_encode h
  · simpa [← hword, encode_injective.eq_iff, hr] using exec_pwmPre he
  · simp [← hword, (hnone .pwmStart (wf_of_not_isSelector rfl _)).symm]

/-- PT_PRE after a clock edge with rst = 0, whatever command it carries or none. -/
theorem clockEdge_ptPre {cmd : Option CmdWord} {sw : Code} {s t : State}
    (hp : s.ptPre < s.cfg.ptPrescale) (h : clockEdge false cmd sw s = .next t) :
    (s.ptRun = true → t.ptPre = (s.ptPre + 1) % s.cfg.ptPrescale)
    ∧ (s.ptRun = false →
        t.ptPre = if cmd = some 0x300000#24 ∧ s.ptCfg = true ∧ s.wrap ≠ 0 then 0 else s.ptPre) := by
  obtain ⟨hrst, -⟩ | ⟨-, c, hc, rfl⟩ := clockEdge_cases h
  · cases hrst
  refine ⟨fun hr => ?_, fun hr => ?_⟩
  · simp [edgePtPre, hr, nextPtPre_of_running hr hp]
  · rw [clocked_ptPre, edgePtPre, if_neg (by simp [hr])]
    obtain ⟨rfl, rfl⟩ | ⟨w, rfl, hw⟩ := edgeCommand_cases hc
    · simp
    · simpa using hostStep_ptPre_of_stopped (by simpa using hr) hw

/-- PWM_PRE after a clock edge with rst = 0, whatever command it carries or none. -/
theorem clockEdge_pwmPre {cmd : Option CmdWord} {sw : Code} {s t : State}
    (hp : s.pwmPre < s.cfg.pwmPrescale) (h : clockEdge false cmd sw s = .next t) :
    (s.pwmRun = true → t.pwmPre = (s.pwmPre + 1) % s.cfg.pwmPrescale)
    ∧ (s.pwmRun = false →
        t.pwmPre = if cmd = some 0x800000#24 ∧ s.pwmCfg = true then 0 else s.pwmPre) := by
  obtain ⟨hrst, -⟩ | ⟨-, c, hc, rfl⟩ := clockEdge_cases h
  · cases hrst
  refine ⟨fun hr => ?_, fun hr => ?_⟩
  · simp [edgePwmPre, hr, nextPwmPre_of_running hr hp]
  · rw [clocked_pwmPre, edgePwmPre, if_neg (by simp [hr])]
    obtain ⟨rfl, rfl⟩ | ⟨w, rfl, hw⟩ := edgeCommand_cases hc
    · simp
    · simpa using hostStep_pwmPre_of_stopped (by simpa using hr) hw

/-- Settles O56: an idle edge is a count of each running prescaler, so n of them divide; beside a
command the same count holds, and a stopped prescaler sees only its own start command. -/
theorem edgesDividedByThePrescalers : Obligations.EdgesDividedByThePrescalers := by
  intro s hpt hpwm
  refine ⟨fun levels => ⟨_, performAll_idleEdges levels s, fun hr => ?_, fun hr => ?_, fun hr => ?_,
    fun hr => ?_⟩, fun cmd sw => ?_⟩
  · obtain ⟨hpre, hphase⟩ := Prod.mk.inj (afterIdleEdges_counter_of_running hpt hr levels)
    exact ⟨hphase, hpre⟩
  · obtain ⟨hpre, hphase⟩ := Prod.mk.inj (afterIdleEdges_counter_of_stopped hr levels)
    exact ⟨hphase, hpre⟩
  · obtain ⟨hpre, hrest⟩ := Prod.mk.inj (afterIdleEdges_carrier_of_running hpwm hr levels)
    obtain ⟨hcarrier, hact⟩ := Prod.mk.inj hrest
    exact ⟨hcarrier, hact, hpre⟩
  · obtain ⟨hpre, hrest⟩ := Prod.mk.inj (afterIdleEdges_carrier_of_stopped hr levels)
    obtain ⟨hcarrier, hact⟩ := Prod.mk.inj hrest
    exact ⟨hcarrier, hact, hpre⟩
  · obtain ⟨t, ht⟩ := perform_next (.edge false cmd sw) s
    obtain ⟨hptRuns, hptStopped⟩ := clockEdge_ptPre hpt ht
    obtain ⟨hpwmRuns, hpwmStopped⟩ := clockEdge_pwmPre hpwm ht
    exact ⟨t, ht, hptRuns, hptStopped, hpwmRuns, hpwmStopped⟩

end Sys2Proof.Machine

/-! The family PwmDuty (spec/41_pwm_duty_register.md): the carrier's commands, the CARRIER_STEP and
its boundary, and the pin. -/

namespace Sys2Proof.Machine

/-! ### The commands of the carrier (R130 to R133) -/

/-- The word of PWM_SET_DUTY holds the value in its low byte (R70, R73). -/
theorem encode_pwmSetDuty (value : Duty) :
    encode (.pwmSetDuty value) = BitVec.ofNat 24 (0x700000 + value.toNat) := by
  apply BitVec.eq_of_toNat_eq
  rw [encode, assembleWord_toNat]
  simp only [opcodeOf, operandData, BitVec.toNat_ofNat, BitVec.toNat_setWidth,
    BitVec.ofNat_eq_ofNat]
  omega

/-- A CARRIER_STEP of a stopped carrier changes nothing (log 7). -/
theorem carrierStep_of_stopped {s : State} (hr : s.pwmRun = false) : carrierStep s = s := by
  simp [carrierStep, hr]

/-- The pin of a stopped carrier is at its idle level (R135). -/
theorem pwmOut_of_stopped {s : State} (hr : s.pwmRun = false) : pwmOut s = s.cfg.pwmIdleLevel := by
  simp [pwmOut, hr]

/-- Settles O21: PWM_CONFIG raises no fault, and its effect is the flag. -/
theorem pwmConfigSetsItsFlag : Obligations.PwmConfigSetsItsFlag :=
  ⟨decode_of_encode_eq rfl (by decide), fun _ => ⟨false, exec_of_commandFault_none rfl⟩⟩

/-- Settles O22: the operand is the word's low byte, and PWM_SET_DUTY raises no fault. -/
theorem pwmSetDutyWritesTheBuffer : Obligations.PwmSetDutyWritesTheBuffer :=
  ⟨fun v value => decode_of_encode_eq rfl (encode_pwmSetDuty value) v,
    fun _ _ => ⟨false, exec_of_commandFault_none rfl⟩⟩

/-- Settles O23: PWM_START faults on PWM_CFG alone, and its effect differs by PWM_RUN. -/
theorem pwmStartBeginsACarrierCycle : Obligations.PwmStartBeginsACarrierCycle := by
  refine ⟨decode_of_encode_eq rfl (by decide), fun s hc => ?_, fun s hc hr => ⟨false, ?_⟩,
    fun s hc hr => ⟨false, ?_⟩⟩
  · exact exec_of_commandFault_some (by simp [commandFault, hc])
  · rw [exec_of_commandFault_none (commandFault_pwmStart_eq_none.mpr hc), effectOf, if_pos hr]
    rfl
  · rw [exec_of_commandFault_none (commandFault_pwmStart_eq_none.mpr hc), effectOf,
      if_neg (by simp [hr])]
    rfl

/-- Settles O24: PWM_STOP clears the flag, which gates both the pin and the CARRIER_STEP. -/
theorem pwmStopGatesTheCarrier : Obligations.PwmStopGatesTheCarrier :=
  ⟨decode_of_encode_eq rfl (by decide), fun _ => ⟨false, exec_of_commandFault_none rfl⟩,
    fun _ hr => ⟨pwmOut_of_stopped hr, carrierStep_of_stopped hr⟩⟩

/-! ### CARRIER_STEP (R134, R137) -/

/-- Settles O25: the two cases of R134, each with its frame. -/
theorem carrierCountsAndLoadsAtTheBoundary : Obligations.CarrierCountsAndLoadsAtTheBoundary := by
  intro s hr
  rw [carrierStep, if_pos hr]
  refine ⟨fun hlast => if_pos hlast, fun hbelow => ?_⟩
  have hsucc : BitVec.ofNat 8 (s.carrier.toNat + 1) = s.carrier + 1 :=
    BitVec.eq_of_toNat_eq (by simp)
  rw [if_neg hbelow, hsucc]

/-- R134 below the count 255. -/
theorem nextCarrier_of_ne {buf act : Duty} {c : BitVec 8} (h : c ≠ 255) :
    nextCarrier buf (c, act) = (c + 1, act) := by
  rw [nextCarrier, if_neg h]

/-- R134 at the count 255, the boundary of the carrier cycle. -/
theorem nextCarrier_last (buf act : Duty) : nextCarrier buf (255, act) = (0, buf) := by
  simp [nextCarrier]

/-- Before the boundary CARRIER counts up and DUTY_ACT keeps its value (R137). -/
theorem iterate_nextCarrier_of_lt {buf act : Duty} {c : BitVec 8} {k : Nat}
    (hk : c.toNat + k < 256) :
    (nextCarrier buf)^[k] (c, act) = (BitVec.ofNat 8 (c.toNat + k), act) := by
  induction k with
  | zero => simp
  | succ k ih =>
    have hbelow : BitVec.ofNat 8 (c.toNat + k) ≠ 255 := by
      simp [BitVec.toNat_eq]
      omega
    rw [Function.iterate_succ_apply', ih (by omega), nextCarrier_of_ne hbelow, ← Nat.add_assoc,
      BitVec.ofNat_add (c.toNat + k) 1]
    rfl

/-- The step that brings CARRIER from 255 to 0 loads DUTY_BUF (R134, R137). -/
theorem iterate_nextCarrier_boundary (buf act : Duty) (c : BitVec 8) :
    (nextCarrier buf)^[256 - c.toNat] (c, act) = (0, buf) := by
  have hlt := c.isLt
  have hsteps : 256 - c.toNat = (255 - c.toNat) + 1 := by omega
  have hlast : c.toNat + (255 - c.toNat) = 255 := by omega
  rw [hsteps, Function.iterate_succ_apply', iterate_nextCarrier_of_lt (by omega), hlast]
  exact nextCarrier_last buf act

/-- Settles O28: DUTY_ACT waits for the count 255, and the step after it loads DUTY_BUF. -/
theorem bufferedDutyWaitsForTheBoundary : Obligations.BufferedDutyWaitsForTheBoundary := by
  intro s hr
  refine ⟨fun k hk => ?_, ?_⟩
  · have hsteps := carrierSteps_carrier_dutyAct hr k
    rw [iterate_nextCarrier_of_lt (by omega)] at hsteps
    obtain ⟨hcarrier, hact⟩ := Prod.mk.inj hsteps
    refine ⟨hact, ?_⟩
    rw [hcarrier, BitVec.toNat_ofNat, Nat.mod_eq_of_lt (by omega)]
  · have hsteps := carrierSteps_carrier_dutyAct hr (256 - s.carrier.toNat)
    rw [iterate_nextCarrier_boundary] at hsteps
    obtain ⟨hcarrier, hact⟩ := Prod.mk.inj hsteps
    exact ⟨hact, hcarrier⟩

/-! ### The pin (R135, R138) -/

/-- How many counts of a carrier cycle the pin is high: DUTY_ACT under LT, one more under LE
(R138). -/
def highSteps (s : State) : Nat := s.dutyAct.toNat + if s.cfg.pwmCompare = .le then 1 else 0

/-- Both compares of R135 are one strict compare: the pin is high at the first `highSteps`
counts. -/
theorem pwmOut_of_running {s : State} (hr : s.pwmRun = true) :
    pwmOut s = decide (s.carrier.toNat < highSteps s) := by
  cases hc : s.cfg.pwmCompare with
  | lt => simp [pwmOut, highSteps, hr, hc]
  | le => simp [pwmOut, highSteps, hr, hc]

/-- The pin at another count of the same cycle. -/
theorem pwmOut_at_count {s : State} (hr : s.pwmRun = true) (c : BitVec 8) :
    pwmOut { s with carrier := c } = decide (c.toNat < highSteps s) :=
  pwmOut_of_running (s := { s with carrier := c }) hr

/-- R138 for a whole cycle: there are never more high counts than counts. -/
theorem highSteps_le (s : State) : highSteps s ≤ 256 := by
  have hlt := s.dutyAct.isLt
  rw [highSteps]
  split <;> omega

/-- Settles O26: the pin is one compare with a bound that no count of the carrier changes, so it
holds at every lower count. -/
theorem pinComparesCarrierWithDuty : Obligations.PinComparesCarrierWithDuty := by
  refine fun s => ⟨pwmOut_of_stopped, fun hr hc => ?_, fun hr hc => ?_, fun hr c c' hle hhigh => ?_⟩
  · simp [pwmOut_of_running hr, highSteps, hc]
  · simp [pwmOut_of_running hr, highSteps, hc]
  · rw [pwmOut_at_count hr, decide_eq_true_iff] at hhigh ⊢
    exact hle.trans_lt hhigh

/-- Of the first `n` numbers, `k` are below `k` when `k` is at most `n`. -/
theorem countP_range_lt {k n : Nat} (hk : k ≤ n) :
    (List.range n).countP (fun c => decide (c < k)) = k := by
  obtain ⟨d, rfl⟩ := Nat.exists_eq_add_of_le hk
  rw [List.range_add, List.countP_append, List.countP_eq_length.mpr (by simp),
    List.countP_eq_zero.mpr (by simp), List.length_range, Nat.add_zero]

/-- Settles O27: the 256 counts below `highSteps` are those at which the pin is high. -/
theorem pinIsHighForDutySteps : Obligations.PinIsHighForDutySteps := by
  intro s hr
  have hpin : ∀ c ∈ List.range 256,
      pwmOut { s with carrier := BitVec.ofNat 8 c } = decide (c < highSteps s) := by
    intro c hc
    rw [pwmOut_at_count hr, BitVec.toNat_ofNat, Nat.mod_eq_of_lt (List.mem_range.mp hc)]
  calc (List.range 256).countP (fun c => pwmOut { s with carrier := BitVec.ofNat 8 c })
      = (List.range 256).countP (fun c => decide (c < highSteps s)) :=
        List.countP_congr fun c hc => by rw [hpin c hc]
    _ = highSteps s := countP_range_lt (highSteps_le s)

end Sys2Proof.Machine

/-! The family SineMapper (spec/42_sine_lut_pwm_mapper.md): the ideal value v, what every SINE_MAP is
in terms of it, and the command SYN_STEP. -/

namespace Sys2Proof

open Sys2Proof.Laws.Sine

/-! ### The ideal value (R160) -/

/-- R160: v is at least 0. -/
theorem idealDuty_nonneg (p W : ℕ) : 0 ≤ idealDuty p W := by
  have hsin := Real.neg_one_le_sin (2 * Real.pi * p / W)
  rw [idealDuty]
  linarith

/-- R160: v is at most 255. -/
theorem idealDuty_le (p W : ℕ) : idealDuty p W ≤ 255 := by
  have hsin := Real.sin_le_one (2 * Real.pi * p / W)
  rw [idealDuty]
  linarith

/-- The sine has the period W in the phase. -/
theorem sin_phase_mod (p : ℕ) {W : ℕ} (hW : W ≠ 0) :
    Real.sin (2 * Real.pi * (p % W : ℕ) / W) = Real.sin (2 * Real.pi * p / W) := by
  have hturns : (p : ℝ) = (p % W : ℕ) + (p / W : ℕ) * W := by
    exact_mod_cast (Nat.mod_add_div' p W).symm
  have hangle : 2 * Real.pi * p / W
      = 2 * Real.pi * (p % W : ℕ) / W + (p / W : ℕ) * (2 * Real.pi) := by
    rw [hturns]
    field_simp
  rw [hangle, Real.sin_add_nat_mul_two_pi]

theorem idealDuty_mod (p : ℕ) {W : ℕ} (hW : W ≠ 0) : idealDuty (p % W) W = idealDuty p W := by
  rw [idealDuty, sin_phase_mod p hW, idealDuty]

/-- Half a turn later the sine is negated, so v is mirrored (R165). -/
theorem idealDuty_add_half (p : ℕ) {W : ℕ} (hW : W ≠ 0) (heven : W % 2 = 0) :
    idealDuty p W + idealDuty (p + W / 2) W = 255 := by
  have hhalf : ((p + W / 2 : ℕ) : ℝ) = p + W / 2 := by
    rw [Nat.cast_add, Nat.cast_div_charZero (Nat.dvd_of_mod_eq_zero heven), Nat.cast_ofNat]
  have hangle : 2 * Real.pi * (p + W / 2 : ℕ) / W = 2 * Real.pi * p / W + Real.pi := by
    rw [hhalf]
    field_simp
  rw [idealDuty, idealDuty, hangle, Real.sin_add_pi]
  ring

/-- v depends on the fraction of the period alone. -/
theorem idealDuty_mul_right (a b : ℕ) {k : ℕ} (hk : k ≠ 0) :
    idealDuty (a * k) (b * k) = idealDuty a b := by
  rw [idealDuty, idealDuty, Nat.cast_mul, Nat.cast_mul, ← mul_assoc,
    mul_div_mul_right _ _ (Nat.cast_ne_zero.mpr hk)]

/-- v at a fraction of a period that the fraction's denominator divides. -/
theorem idealDuty_fraction {a b W : ℕ} (hW : W ≠ 0) (hb : W % b = 0) :
    idealDuty (a * W / b) W = idealDuty a b := by
  obtain ⟨k, rfl⟩ := Nat.dvd_of_mod_eq_zero hb
  obtain ⟨hb0, hk⟩ := mul_ne_zero_iff.mp hW
  rw [mul_left_comm, Nat.mul_div_cancel_left _ (Nat.pos_of_ne_zero hb0), mul_comm b k, mul_comm k b,
    idealDuty_mul_right a b hk]

theorem idealDuty_zero (W : ℕ) : idealDuty 0 W = 127.5 := by simp [idealDuty]

theorem idealDuty_one_fourth : idealDuty 1 4 = 255 := by
  have hangle : 2 * Real.pi * (1 : ℕ) / (4 : ℕ) = Real.pi / 2 := by push_cast; ring
  rw [idealDuty, hangle, Real.sin_pi_div_two]
  norm_num

theorem idealDuty_three_fourths : idealDuty 3 4 = 0 := by
  have hmirror : idealDuty 1 4 + idealDuty 3 4 = 255 :=
    idealDuty_add_half 1 (by decide) (by decide)
  linarith [idealDuty_one_fourth]

theorem idealDuty_one_twelfth : idealDuty 1 12 = 191.25 := by
  have hangle : 2 * Real.pi * (1 : ℕ) / (12 : ℕ) = Real.pi / 6 := by push_cast; ring
  rw [idealDuty, hangle, Real.sin_pi_div_six]
  norm_num

theorem idealDuty_five_twelfths : idealDuty 5 12 = 191.25 := by
  have hangle : 2 * Real.pi * (5 : ℕ) / (12 : ℕ) = Real.pi - Real.pi / 6 := by push_cast; ring
  rw [idealDuty, hangle, Real.sin_pi_sub, Real.sin_pi_div_six]
  norm_num

theorem idealDuty_seven_twelfths : idealDuty 7 12 = 63.75 := by
  have hmirror : idealDuty 1 12 + idealDuty 7 12 = 255 :=
    idealDuty_add_half 1 (by decide) (by decide)
  linarith [idealDuty_one_twelfth]

theorem idealDuty_eleven_twelfths : idealDuty 11 12 = 63.75 := by
  have hmirror : idealDuty 5 12 + idealDuty 11 12 = 255 :=
    idealDuty_add_half 5 (by decide) (by decide)
  linarith [idealDuty_five_twelfths]

/-! ### SINE_MAP (R161, R162, R164) -/

section
variable {W : Word16} (hW : W ≠ 0) (p : Word16)
include hW

theorem toNat_umod_lt : (p % W).toNat < W.toNat :=
  BitVec.lt_def.mp (BitVec.umod_lt p ((BitVec.pos_iff_ne_zero W).mpr hW))

theorem idealDuty_umod : idealDuty (p % W).toNat W.toNat = idealDuty p.toNat W.toNat := by
  rw [BitVec.toNat_umod, idealDuty_mod _ (BitVec.toNat_pos_of_ne_zero hW).ne']

/-- R161 for every phase: the default SINE_MAP rounds v half up. -/
theorem sineValue_dutyRef :
    (sineValue .dutyRef (p % W) W : ℤ) = ⌊idealDuty p.toNat W.toNat + 1 / 2⌋ := by
  rw [sineValue, dutyRef_eq _ _ (toNat_umod_lt hW p) (Nat.le_of_lt_succ W.isLt), idealDuty_umod hW]

/-- R162 for every phase: a conforming SINE_MAP rounds v up at the pairs it lists, and down
elsewhere. -/
theorem sineValue_conforming (roundUp : List (Word16 × Word16)) :
    (sineValue (.conforming roundUp) (p % W) W : ℤ) =
      if (p % W, W) ∈ roundUp then ⌈idealDuty p.toNat W.toNat⌉
      else ⌊idealDuty p.toNat W.toNat⌋ := by
  have hlt := toNat_umod_lt hW p
  have hword := Nat.le_of_lt_succ W.isLt
  by_cases hmem : (p % W, W) ∈ roundUp
  · rw [if_pos hmem, sineValue, if_pos (List.contains_iff_mem.mpr hmem),
      sineCeil_eq _ _ hlt hword, idealDuty_umod hW]
  · rw [if_neg hmem, sineValue, if_neg (mt List.contains_iff_mem.mp hmem),
      sineFloor_eq _ _ hlt hword, idealDuty_umod hW]

/-- Law L1 (R162). -/
theorem sineValue_eq_floor_or_ceil (m : SineMap) :
    (sineValue m (p % W) W : ℤ) = ⌊idealDuty p.toNat W.toNat⌋
      ∨ (sineValue m (p % W) W : ℤ) = ⌈idealDuty p.toNat W.toNat⌉ := by
  cases m with
  | dutyRef =>
    rw [sineValue_dutyRef hW, ← round_eq, round]
    split
    · exact .inl rfl
    · exact .inr rfl
  | conforming roundUp =>
    rw [sineValue_conforming hW]
    split
    · exact .inr rfl
    · exact .inl rfl

/-- R164: both neighbours of v are at most 255. -/
theorem sineValue_le (m : SineMap) : sineValue m (p % W) W ≤ 255 := by
  have hceil : ⌈idealDuty p.toNat W.toNat⌉ ≤ 255 :=
    Int.ceil_le.mpr (by exact_mod_cast idealDuty_le p.toNat W.toNat)
  have hfloor := Int.floor_le_ceil (idealDuty p.toNat W.toNat)
  rcases sineValue_eq_floor_or_ceil hW p m with h | h <;> omega

/-- No value is cut to 8 bits (R164). -/
theorem sineMap_toNat (m : SineMap) : (sineMap m p W).toNat = sineValue m (p % W) W := by
  have hle := sineValue_le hW p m
  rw [sineMap, BitVec.toNat_ofNat, Nat.mod_eq_of_lt (by omega)]

/-- Law L1 as a distance: a SINE_MAP is less than 1 away from v. -/
theorem sineMap_near (m : SineMap) :
    |((sineMap m p W).toNat : ℝ) - idealDuty p.toNat W.toNat| < 1 := by
  have hvalue : ((sineMap m p W).toNat : ℝ) = ((sineValue m (p % W) W : ℤ) : ℝ) := by
    rw [sineMap_toNat hW, Int.cast_natCast]
  rw [hvalue, abs_sub_lt_iff]
  rcases sineValue_eq_floor_or_ceil hW p m with h | h
  · rw [h]
    constructor
    · linarith [Int.floor_le (idealDuty p.toNat W.toNat)]
    · linarith [Int.lt_floor_add_one (idealDuty p.toNat W.toNat)]
  · rw [h]
    constructor
    · linarith [Int.ceil_lt_add_one (idealDuty p.toNat W.toNat)]
    · linarith [Int.le_ceil (idealDuty p.toNat W.toNat)]

/-- Where v is an integer every SINE_MAP is v (R162, R166). -/
theorem sineMap_toNat_of_integer (m : SineMap) {n : ℕ}
    (hv : idealDuty p.toNat W.toNat = n) : (sineMap m p W).toNat = n := by
  obtain ⟨habove, hbelow⟩ := abs_sub_lt_iff.mp (sineMap_near hW p m)
  rw [hv] at habove hbelow
  have h1 : (sineMap m p W).toNat < n + 1 := by exact_mod_cast sub_lt_iff_lt_add'.mp habove
  have h2 : n < (sineMap m p W).toNat + 1 := by exact_mod_cast sub_lt_iff_lt_add'.mp hbelow
  omega

/-- Where v lies within a half of an integer, the half above it left out, `duty_ref` is that
integer (R161). -/
theorem sineMap_dutyRef_toNat {n : ℕ} (hle : (n : ℝ) ≤ idealDuty p.toNat W.toNat + 1 / 2)
    (hlt : idealDuty p.toNat W.toNat + 1 / 2 < n + 1) : (sineMap .dutyRef p W).toNat = n := by
  have hfloor : ⌊idealDuty p.toNat W.toNat + 1 / 2⌋ = (n : ℤ) :=
    Int.floor_eq_iff.mpr ⟨by exact_mod_cast hle, by exact_mod_cast hlt⟩
  rw [sineMap_toNat hW]
  exact_mod_cast (sineValue_dutyRef hW p).trans hfloor

end

/-- Settles O30: SINE_MAP is not cut to 8 bits, and its value rounds v half up. -/
theorem dutyRefIsTheRoundedSine : Obligations.DutyRefIsTheRoundedSine := by
  intro p W hW
  rw [sineMap_toNat hW, sineValue_dutyRef hW]

/-- Law L2 (R162). -/
theorem sineMap_umod (m : SineMap) (p W : Word16) : sineMap m p W = sineMap m (p % W) W := by
  have hmod : p % W % W = p % W := BitVec.eq_of_toNat_eq (by simp)
  rw [sineMap, sineMap, hmod]

/-- `f` takes the upper neighbour of v at the pair of a phase and a period. -/
def RoundsUp (f : Word16 → Word16 → Duty) (x : Word16 × Word16) : Prop :=
  ((f x.1 x.2).toNat : ℤ) = ⌈idealDuty x.1.toNat x.2.toNat⌉

/-- There are finitely many pairs, so a list holds those at which a function rounds up. -/
theorem exists_list_roundsUp (f : Word16 → Word16 → Duty) :
    ∃ roundUp : List (Word16 × Word16), ∀ x, x ∈ roundUp ↔ RoundsUp f x := by
  classical
  exact ⟨(Finset.univ.filter (RoundsUp f)).toList, by simp⟩

/-- Settles O31: each value is a neighbour of v at the phase below the period, and a function with
such values is named by the pairs at which it rounds up. -/
theorem sineMapKeepsItsLaws : Obligations.SineMapKeepsItsLaws := by
  refine ⟨fun m p W hW => ⟨?_, sineMap_umod m p W⟩, fun f hf => ?_⟩
  · rw [sineMap_toNat hW]
    exact sineValue_eq_floor_or_ceil hW p m
  · obtain ⟨roundUp, hmem⟩ := exists_list_roundsUp f
    refine ⟨roundUp, fun p W hW => BitVec.eq_of_toNat_eq ?_⟩
    obtain ⟨hL1, hL2⟩ := hf p W hW
    have hup : (p % W, W) ∈ roundUp ↔ ((f p W).toNat : ℤ) = ⌈idealDuty p.toNat W.toNat⌉ := by
      rw [hmem, RoundsUp, ← hL2, idealDuty_umod hW]
    have hvalue : (sineValue (.conforming roundUp) (p % W) W : ℤ) = (f p W).toNat := by
      rw [sineValue_conforming hW]
      by_cases hceil : ((f p W).toNat : ℤ) = ⌈idealDuty p.toNat W.toNat⌉
      · rw [if_pos (hup.mpr hceil), hceil]
      · rw [if_neg (mt hup.mp hceil), hL1.resolve_right hceil]
    rw [sineMap_toNat hW]
    exact_mod_cast hvalue

/-- Settles O32: the sine lies in [-1, 1], and both neighbours of v are at most 255. -/
theorem sineValueFitsEightBits : Obligations.SineValueFitsEightBits :=
  fun m p _ hW => ⟨idealDuty_nonneg _ _, idealDuty_le _ _, sineValue_le hW p m⟩

/-! ### Half a period later (R165) -/

/-- v is no half-integer where the sine is not 0, at every phase (R161, R165). -/
theorem idealDuty_add_half_ne {p W : Word16} (hW : W ≠ 0)
    (hsin : Real.sin (2 * Real.pi * p.toNat / W.toNat) ≠ 0) (n : ℤ) :
    idealDuty p.toNat W.toNat + 1 / 2 ≠ n := by
  rw [← idealDuty_umod hW p]
  refine idealDuty_not_half _ _ (toNat_umod_lt hW p) (Nat.le_of_lt_succ W.isLt) ?_ n
  rwa [BitVec.toNat_umod, sin_phase_mod _ (BitVec.toNat_pos_of_ne_zero hW).ne']

/-- Two mirrored numbers that are no half-integers round to mirrored integers. -/
theorem floor_add_half_mirror {x y : ℝ} (hsum : x + y = 255) (hx : ∀ n : ℤ, x + 1 / 2 ≠ n) :
    ⌊x + 1 / 2⌋ + ⌊y + 1 / 2⌋ = 255 := by
  have hlt : (⌊x + 1 / 2⌋ : ℝ) < x + 1 / 2 := lt_of_le_of_ne (Int.floor_le _) (hx _).symm
  have hub := Int.lt_floor_add_one (x + 1 / 2)
  have hy : ⌊y + 1 / 2⌋ = 255 - ⌊x + 1 / 2⌋ := by
    rw [Int.floor_eq_iff]
    push_cast
    constructor <;> linarith
  omega

/-- Settles O33: the sine changes its sign, and v is a half-integer only where the sine is 0. -/
theorem halfPeriodShiftInvertsTheSine : Obligations.HalfPeriodShiftInvertsTheSine := by
  intro p q W hW heven hq
  have hW0 := (BitVec.toNat_pos_of_ne_zero hW).ne'
  have hsum : idealDuty p.toNat W.toNat + idealDuty q.toNat W.toNat = 255 := by
    rw [hq, idealDuty_mod _ hW0, idealDuty_add_half _ hW0 heven]
  refine ⟨hsum, fun hsin => ?_, fun hsin => ?_, fun m => ?_⟩
  · have hmirror := floor_add_half_mirror hsum (idealDuty_add_half_ne hW hsin)
    rw [← dutyRefIsTheRoundedSine p W hW, ← dutyRefIsTheRoundedSine q W hW] at hmirror
    exact_mod_cast hmirror
  · have hp : idealDuty p.toNat W.toNat = 127.5 := by rw [idealDuty, hsin, mul_zero, add_zero]
    have hq' : idealDuty q.toNat W.toNat = 127.5 := by linarith
    exact ⟨sineMap_dutyRef_toNat hW _ (by norm_num [hp]) (by norm_num [hp]),
      sineMap_dutyRef_toNat hW _ (by norm_num [hq']) (by norm_num [hq'])⟩
  · obtain ⟨hp1, hp2⟩ := abs_sub_lt_iff.mp (sineMap_near hW p m)
    obtain ⟨hq1, hq2⟩ := abs_sub_lt_iff.mp (sineMap_near hW q m)
    have habove : (sineMap m p W).toNat + (sineMap m q W).toNat < 257 := by
      exact_mod_cast (by linarith : ((sineMap m p W).toNat + (sineMap m q W).toNat : ℝ) < 257)
    have hbelow : 253 < (sineMap m p W).toNat + (sineMap m q W).toNat := by
      exact_mod_cast (by linarith : (253 : ℝ) < (sineMap m p W).toNat + (sineMap m q W).toNat)
    omega

/-! ### The exact points (R166) -/

/-- A fraction of the period is a phase: it fits 16 bits. -/
theorem toNat_fraction {a b : ℕ} (hab : a ≤ b) (W : Word16) :
    (BitVec.ofNat 16 (a * W.toNat / b)).toNat = a * W.toNat / b := by
  have hle : a * W.toNat / b ≤ W.toNat :=
    Nat.div_le_of_le_mul (Nat.mul_le_mul_right _ hab)
  rw [BitVec.toNat_ofNat, Nat.mod_eq_of_lt (by omega)]

/-- v at the phase that is a fraction of the period. -/
theorem idealDuty_phase_fraction {a b : ℕ} {W : Word16} (hW : W ≠ 0) (hab : a ≤ b)
    (hb : W.toNat % b = 0) :
    idealDuty (BitVec.ofNat 16 (a * W.toNat / b)).toNat W.toNat = idealDuty a b := by
  rw [toNat_fraction hab, idealDuty_fraction (BitVec.toNat_pos_of_ne_zero hW).ne' hb]

/-- Every SINE_MAP at a fraction of the period at which v is an integer. -/
theorem sineMap_fraction {a b n : ℕ} (hab : a ≤ b) (hv : idealDuty a b = n) (m : SineMap)
    {W : Word16} (hW : W ≠ 0) (hb : W.toNat % b = 0) :
    sineMap m (BitVec.ofNat 16 (a * W.toNat / b)) W = BitVec.ofNat 8 n := by
  rw [← sineMap_toNat_of_integer hW _ m ((idealDuty_phase_fraction hW hab hb).trans hv)]
  simp

/-- `duty_ref` at a fraction of the period whose v is known. -/
theorem sineMap_dutyRef_fraction {a b n : ℕ} {v : ℝ} (hab : a ≤ b) (hv : idealDuty a b = v)
    (hle : (n : ℝ) ≤ v + 1 / 2) (hlt : v + 1 / 2 < n + 1)
    {W : Word16} (hW : W ≠ 0) (hb : W.toNat % b = 0) :
    sineMap .dutyRef (BitVec.ofNat 16 (a * W.toNat / b)) W = BitVec.ofNat 8 n := by
  have hphase := (idealDuty_phase_fraction hW hab hb).trans hv
  rw [← sineMap_dutyRef_toNat (n := n) hW _ (by rwa [hphase]) (by rwa [hphase])]
  simp

/-- Settles O34: v at a fraction of the period depends on the fraction alone. -/
theorem sineMapAtExactPoints : Obligations.SineMapAtExactPoints := by
  refine ⟨fun m p _ _ hW hv => sineMap_toNat_of_integer hW p m hv, fun m W hW h4 => ⟨?_, ?_⟩,
    fun W hW h12 => ⟨?_, ?_, ?_, ?_, ?_⟩⟩
  · rw [← one_mul W.toNat]
    exact sineMap_fraction (by decide) (by exact_mod_cast idealDuty_one_fourth) m hW h4
  · exact sineMap_fraction (by decide) (by exact_mod_cast idealDuty_three_fourths) m hW h4
  · have hW0 := (BitVec.toNat_pos_of_ne_zero hW).ne'
    have h1 := idealDuty_fraction (a := 1) hW0 h12
    rw [one_mul] at h1
    exact ⟨h1.trans idealDuty_one_twelfth,
      (idealDuty_fraction hW0 h12).trans idealDuty_five_twelfths,
      (idealDuty_fraction hW0 h12).trans idealDuty_seven_twelfths,
      (idealDuty_fraction hW0 h12).trans idealDuty_eleven_twelfths⟩
  · rw [← one_mul W.toNat]
    exact sineMap_dutyRef_fraction (by decide) idealDuty_one_twelfth (by norm_num) (by norm_num)
      hW h12
  · exact sineMap_dutyRef_fraction (by decide) idealDuty_five_twelfths (by norm_num) (by norm_num)
      hW h12
  · exact sineMap_dutyRef_fraction (by decide) idealDuty_seven_twelfths (by norm_num) (by norm_num)
      hW h12
  · exact sineMap_dutyRef_fraction (by decide) idealDuty_eleven_twelfths (by norm_num) (by norm_num)
      hW h12

/-- Phase 0 gives 128 under `duty_ref`, since v is 127.5 there (R161, R163). -/
theorem sineMap_dutyRef_zero {W : Word16} (hW : W ≠ 0) : sineMap .dutyRef 0 W = 128 := by
  have hzero : idealDuty (0 : Word16).toNat W.toNat = 127.5 := idealDuty_zero _
  exact BitVec.eq_of_toNat_eq
    (sineMap_dutyRef_toNat (n := 128) hW 0 (by norm_num [hzero]) (by norm_num [hzero]))

/-- A period of one tick has one phase (L2; R163). -/
theorem sineMap_period_one (m : SineMap) (p : Word16) : sineMap m p 1 = sineMap m 0 1 := by
  have hmod : p % 1 = 0 := BitVec.umod_one
  rw [sineMap_umod m p, hmod]

end Sys2Proof

namespace Sys2Proof.Machine

/-- Settles O35: SYN_STEP faults on WRAP alone, and its effect is one sample. -/
theorem synStepWritesOneSample : Obligations.SynStepWritesOneSample :=
  ⟨decode_of_encode_eq rfl (by decide),
    fun _ hw => ⟨false, exec_of_commandFault_none (if_neg hw)⟩,
    fun _ hw => exec_of_commandFault_some (if_pos hw),
    fun _ => sineMap_dutyRef_zero, sineMap_period_one⟩

end Sys2Proof.Machine

/-! The family FrequencySelector (spec/43_frequency_selector_mux.md): PERIOD as a rounded quotient of
rationals, the selector's commands, and the SwitchEnv step. -/

namespace Sys2Proof

/-! ### PERIOD (R190, R200) -/

theorem Freq.toRat_pos {f : Freq} (hnum : 0 < f.num) (hden : 0 < f.den) : 0 < f.toRat := by
  unfold Freq.toRat
  positivity

/-- R190: `period` is the floor that the rule writes, over the common denominator 2 D of N / D + 1/2. -/
theorem period_eq_floor {r f : Freq} (hr : 0 < r.den) (hf : 0 < f.num) :
    (period r f : ℤ) = ⌊r.toRat / f.toRat + 1 / 2⌋ := by
  have hquot : r.toRat / f.toRat + 1 / 2
      = ((2 * (r.num * f.den) + r.den * f.num : ℕ) : ℚ) / (2 * (r.den * f.num) : ℕ) := by
    have hr' : (r.den : ℚ) ≠ 0 := by positivity
    have hf' : (f.num : ℚ) ≠ 0 := by positivity
    rw [Freq.toRat, Freq.toRat, div_div_div_eq]
    push_cast
    field_simp
  rw [hquot, Rat.floor_natCast_div_natCast]
  rfl

/-- R190: the period of a frequency is at least 1 up to twice the tick rate. -/
theorem one_le_period_iff {r f : Freq} (hr : 0 < r.den) (hnum : 0 < f.num) (hden : 0 < f.den) :
    1 ≤ period r f ↔ f.toRat ≤ 2 * r.toRat := by
  have hf := Freq.toRat_pos hnum hden
  calc 1 ≤ period r f ↔ (1 : ℤ) ≤ ⌊r.toRat / f.toRat + 1 / 2⌋ := by
        rw [← period_eq_floor hr hnum]; norm_cast
    _ ↔ 1 / 2 ≤ r.toRat / f.toRat := by
        rw [Int.le_floor, Int.cast_one, ← sub_le_iff_le_add]; norm_num
    _ ↔ f.toRat ≤ 2 * r.toRat := by
        rw [le_div_iff₀ hf]; constructor <;> intro h <;> linarith

/-- R190: the period of a frequency fits 16 bits above 2R/131071. -/
theorem period_le_iff {r f : Freq} (hr : 0 < r.den) (hnum : 0 < f.num) (hden : 0 < f.den) :
    period r f ≤ 65535 ↔ 2 * r.toRat / 131071 < f.toRat := by
  have hf := Freq.toRat_pos hnum hden
  calc period r f ≤ 65535 ↔ ⌊r.toRat / f.toRat + 1 / 2⌋ < (65536 : ℤ) := by
        rw [← period_eq_floor hr hnum]; omega
    _ ↔ r.toRat / f.toRat < 131071 / 2 := by
        rw [Int.floor_lt, ← lt_sub_iff_add_lt]; norm_num
    _ ↔ 2 * r.toRat / 131071 < f.toRat := by
        rw [div_lt_iff₀ hf]; constructor <;> intro h <;> linarith

/-- Settles O36: the floor over a common denominator, and each bound on the floor as a bound on R / f. -/
theorem periodRoundsHalfUp : Obligations.PeriodRoundsHalfUp :=
  fun _ _ _ hr hnum hden =>
    ⟨period_eq_floor hr hnum, and_congr (one_le_period_iff hr hnum hden) (period_le_iff hr hnum hden)⟩

/-- Settles O37: R / f falls as f rises, and the floor keeps the order. -/
theorem periodNeverRisesWithFrequency : Obligations.PeriodNeverRisesWithFrequency := by
  refine ⟨fun r f g hrnum hrden hfnum hfden hgnum _ hlt => ?_, by decide, by decide⟩
  have hr := Freq.toRat_pos hrnum hrden
  have hf := Freq.toRat_pos hfnum hfden
  have hfloor : (period r g : ℤ) ≤ period r f := by
    rw [period_eq_floor hrden hgnum, period_eq_floor hrden hfnum]
    gcongr
  exact_mod_cast hfloor

/-! ### The words of the selector's commands (R73) -/

theorem zext16_eq_ofNat (c : Code) : zext16 c = BitVec.ofNat 16 c.toNat :=
  (BitVec.ofNat_toNat 16 c).symm

/-- The word of a command of form C3 holds the code in its low bits (R70, R71). -/
theorem encode_of_code {i : Instr} {code : Code} {n : Nat} (hop : (opcodeOf i).toNat * 0x100000 = n)
    (hdata : operandData i = zext16 code) : encode i = BitVec.ofNat 24 (n + code.toNat) := by
  apply BitVec.eq_of_toNat_eq
  rw [encode, assembleWord_toNat, hop, hdata, zext16_eq_ofNat, BitVec.toNat_ofNat,
    BitVec.toNat_ofNat]
  omega

theorem encode_selLookup (code : Code) :
    encode (.selLookup code) = BitVec.ofNat 24 (0xC00000 + code.toNat) :=
  encode_of_code (by simp [opcodeOf]) rfl

theorem encode_selApply (code : Code) :
    encode (.selApply code) = BitVec.ofNat 24 (0xD00000 + code.toNat) :=
  encode_of_code (by simp [opcodeOf]) rfl

/-- VARIANT 2 decodes every command from its word (R74). -/
theorem decode_two_of_encode_eq {i : Instr} {w : CmdWord} (hw : encode i = w) :
    decode .two w = .cmd i :=
  decode_eq_cmd_iff.mpr ⟨hw, rfl⟩

end Sys2Proof

namespace Sys2Proof.Machine

/-! ### The selector's commands (R192 to R195) -/

/-- In VARIANT 2 a command of the selector has its effect (R74). -/
theorem exec_selector_of_two {i : Instr} {s : State} (hi : i.isSelector = true)
    (hv : s.cfg.variant = .two) : exec i s = .next (effectOf i s) :=
  exec_of_commandFault_none (commandFault_of_isSelector hi hv)

/-- In VARIANT 1 a command of the selector only records that its word is illegal (R74, R221). -/
theorem exec_selector_of_one {i : Instr} {s : State} {w : CmdWord} (hi : i.isSelector = true)
    (hw : encode i = w) (hv : s.cfg.variant = .one) :
    exec i s = .next { s with faults := s.faults ++ [⟨.illegalCommand, s.cmdIndex, w⟩] } := by
  have hfault : commandFault i s = some .illegalCommand := by
    cases i with
    | selRead => exact if_pos hv
    | selLookup code => exact if_pos hv
    | selApply code => exact if_pos hv
    | selApplySw => exact if_pos hv
    | _ => cases hi
  rw [exec_of_commandFault_some hfault, hw]

/-- Settles O39: the effect of SEL_READ is its response, the zero-extended sample. -/
theorem selReadReturnsTheSwitches : Obligations.SelReadReturnsTheSwitches := by
  have hword : encode .selRead = 0xB00000#24 := by decide
  refine ⟨decode_two_of_encode_eq hword, fun s hv => ?_, fun s => exec_selector_of_one rfl hword⟩
  rw [exec_selector_of_two rfl hv, ← zext16_eq_ofNat]
  rfl

/-- Settles O40: the effect of SEL_LOOKUP is its response, the table's entry. -/
theorem selLookupReturnsATableEntry : Obligations.SelLookupReturnsATableEntry :=
  ⟨fun code => decode_two_of_encode_eq (encode_selLookup code),
    fun _ _ => exec_selector_of_two rfl,
    fun _ code => exec_selector_of_one rfl (encode_selLookup code)⟩

/-- Settles O41: the effect of SEL_APPLY writes WRAP alone, and R9 keeps 0 out of the table. -/
theorem selApplyWritesATableEntry : Obligations.SelApplyWritesATableEntry :=
  ⟨fun code => decode_two_of_encode_eq (encode_selApply code),
    fun _ _ hv => ⟨false, exec_selector_of_two rfl hv⟩,
    fun _ code hv hwf => periodTable_ne_zero hwf hv code,
    fun _ code => exec_selector_of_one rfl (encode_selApply code)⟩

/-- Settles O42: the effect of SEL_APPLY_SW reads the switches once, for WRAP and for RSP. -/
theorem selApplySwUsesOneSample : Obligations.SelApplySwUsesOneSample := by
  have hword : encode .selApplySw = 0xE00000#24 := by decide
  refine ⟨decode_two_of_encode_eq hword, fun s hv => ?_, fun s => exec_selector_of_one rfl hword⟩
  rw [exec_selector_of_two rfl hv, ← zext16_eq_ofNat]
  rfl

/-! ### The SwitchEnv step (R196) -/

/-- The frame of a new sampled level: only the switch inputs and their stages can differ. -/
theorem setSwS_frame (v : Code) (s : State) :
    s.setSwS v = { s with sw := (s.setSwS v).sw, sync := (s.setSwS v).sync } := by
  unfold State.setSwS
  split <;> rfl

theorem switchStep_of_two {s : State} (hv : s.cfg.variant = .two) (v : Code) :
    switchStep v s = s.setSwS v := by
  simp [switchStep, hv]

/-- VARIANT 1 has no SwitchEnv agent (R42; log 7). -/
theorem switchStep_of_one {s : State} (hv : s.cfg.variant = .one) (v : Code) :
    switchStep v s = s := by
  simp [switchStep, hv]

/-- Settles O43: VARIANT 2's step sets the sampled level, within the frame of the switch inputs. -/
theorem switchEnvSetsTheSampledLevel : Obligations.SwitchEnvSetsTheSampledLevel := by
  intro s v
  refine ⟨fun hv => ?_, fun hv => switchStep_of_one hv v⟩
  rw [switchStep_of_two hv v]
  exact ⟨setSwS_swS s v, _, _, setSwS_sync_length s v, setSwS_frame v s⟩

end Sys2Proof.Machine


/-! The family HostSequences (spec/44_host_sequences.md): NOP and the illegal words, one step of the
machine, the end of a run, and fair runs. -/

namespace Sys2Proof

/-! ### The illegal words (R75, R221) -/

/-- A data form is illegal exactly when its must-be-zero bits are not all 0 (R71). -/
theorem ite_illegal_iff {p : Prop} [Decidable p] {i : Instr} {why : IllegalReason} :
    (∃ r, (if p then Decoded.cmd i else .illegal why) = .illegal r) ↔ ¬ p := by
  by_cases h : p <;> simp [h]

/-- R71: the must-be-zero data bits of an opcode's form, for each opcode that R73 gives a command. -/
theorem decodeOp_illegal_iff {op : BitVec 4} (hop : op ≠ 0xF) {data : Word16} :
    (∃ r, decodeOp op data = .illegal r) ↔
      (op = 0x7 ∧ data.extractLsb' 8 8 ≠ 0)
        ∨ ((op = 0xC ∨ op = 0xD) ∧ data.extractLsb' 3 13 ≠ 0)
        ∨ (op ≠ 0x2 ∧ op ≠ 0x7 ∧ op ≠ 0xC ∧ op ≠ 0xD ∧ data ≠ 0) := by
  unfold decodeOp
  split
  case h_16 =>
    simp only [imp_false] at *
    bv_omega
  all_goals simp [formZ, formD8, formC3, formD16, ite_illegal_iff]

/-- The gate of R74 as R221 writes it. -/
theorem gatedOp_and_one_iff {v : Variant} {op : BitVec 4} :
    (gatedOp op && v == .one) = true ↔ v = .one ∧ 0xB ≤ op.toNat ∧ op.toNat ≤ 0xE := by
  simp [gatedOp, and_comm]

/-- R75: the words that fail one of R77's checks. -/
theorem decode_illegal_iff {v : Variant} {w : CmdWord} :
    (∃ r, decode v w = .illegal r) ↔
      opField w = 0xF
        ∨ zField w ≠ 0
        ∨ (opField w = 0x7 ∧ w.extractLsb' 8 8 ≠ 0)
        ∨ ((opField w = 0xC ∨ opField w = 0xD) ∧ w.extractLsb' 3 13 ≠ 0)
        ∨ (opField w ≠ 0x2 ∧ opField w ≠ 0x7 ∧ opField w ≠ 0xC ∧ opField w ≠ 0xD
            ∧ dataField w ≠ 0)
        ∨ (v = .one ∧ 0xB ≤ (opField w).toNat ∧ (opField w).toNat ≤ 0xE) := by
  have hbyte : (dataField w).extractLsb' 8 8 = w.extractLsb' 8 8 :=
    BitVec.extractLsb'_extractLsb'_of_le (by decide)
  have hcode : (dataField w).extractLsb' 3 13 = w.extractLsb' 3 13 :=
    BitVec.extractLsb'_extractLsb'_of_le (by decide)
  simp only [decode, gatedOp_and_one_iff]
  split_ifs with hz hop hgate
  · exact iff_of_true ⟨_, rfl⟩ (.inr (.inl hz))
  · exact iff_of_true ⟨_, rfl⟩ (.inl hop)
  · exact iff_of_true ⟨_, rfl⟩ (.inr (.inr (.inr (.inr (.inr hgate)))))
  · simp only [decodeOp_illegal_iff hop, hbyte, hcode, hop, hz, hgate, false_or, or_false]

end Sys2Proof

namespace Sys2Proof.Machine

/-- Settles O5: the decoder's fields are the bits that R221 names, and the Host step of an illegal word
raises the fault. -/
theorem illegalWordsRaiseIllegalCommand : Obligations.IllegalWordsRaiseIllegalCommand :=
  fun _ _ => ⟨decode_illegal_iff, fun ⟨_, hr⟩ => hostStep_of_illegal hr⟩

/-! ### NOP (R220) -/

/-- NOP alone has the opcode 0 (R73). -/
theorem eq_nop_of_opcodeOf {i : Instr} (h : opcodeOf i = 0) : i = .nop := by
  cases i with
  | nop => rfl
  | _ => cases h

/-- Settles O45: NOP's word is its encoding, a word with op 0 decodes as nothing else, and NOP's effect
is that of every command that does not read. -/
theorem nopDoesNothing : Obligations.NopDoesNothing := by
  have hword : encode .nop = 0 := by decide
  refine ⟨fun v w => ⟨fun hd => ?_, fun hw => ?_⟩, fun v w hop hne => ?_,
    fun s => exec_of_commandFault_none rfl⟩
  · exact (encode_of_decode hd).symm.trans hword
  · exact decode_of_encode_eq rfl (hword.trans hw.symm) v
  · cases hd : decode v w with
    | illegal r => exact ⟨r, rfl⟩
    | cmd i =>
      obtain ⟨-, hdecode⟩ := fields_of_decode hd
      obtain rfl : i = .nop := eq_nop_of_opcodeOf ((opcodeOf_of_decodeOp hdecode).trans hop)
      exact absurd ((encode_of_decode hd).symm.trans hword) hne

/-! ### One step (R222, R223) -/

/-- Settles O7: the step is the Host step of the scheduled word, which performs what it decodes to. -/
theorem stepRunsTheDecodedCommand : Obligations.StepRunsTheDecodedCommand := by
  intro s w rest i hw hi hd
  rw [step_cons hw hi]
  exact hostStep_of_cmd hd

/-- Settles O10: the agent is the free value that log 6 takes. -/
theorem unscheduledStepIsSomeAgents : Obligations.UnscheduledStepIsSomeAgents :=
  fun s hw hi => ⟨Config.freeAgent s.draws, step_nil hw hi⟩

/-! ### The end of a run (R228) -/

/-- What is scheduled does not touch what inputs performed one after the other do. -/
theorem performAll_schedule {l : List Input} {s t : State} (m : List Input)
    (h : performAll l s = .next t) : performAll l (s.schedule m) = .next (t.schedule m) := by
  induction l generalizing s with
  | nil =>
    obtain rfl : s = t := by simpa [performAll] using h
    rfl
  | cons i l ih =>
    obtain ⟨u, hu, ht⟩ := performAll_cons h
    simp only [performAll, perform_schedule m hu, ih ht]

/-- Performing inputs keeps what is scheduled. -/
theorem performAll_inputs {l : List Input} {s t : State} (h : performAll l s = .next t) :
    t.inputs = s.inputs := by
  induction l generalizing s with
  | nil =>
    obtain rfl : s = t := by simpa [performAll] using h
    rfl
  | cons i l ih =>
    obtain ⟨u, hu, ht⟩ := performAll_cons h
    obtain ⟨-, hinputs, -⟩ := perform_keeps hu
    rw [ih ht, hinputs]

/-- The machine's first steps perform the first inputs of its schedule, after those have left it. -/
theorem steps_eq_performAll {s : State} (hw : s.cfg.wf = true) {before after : List Input}
    (hi : s.inputs = before ++ after) :
    steps before.length s = performAll before (s.schedule after) := by
  induction before generalizing s with
  | nil =>
    have hs : s.schedule after = s := by rw [← List.nil_append after, ← hi]; rfl
    rw [hs]
    rfl
  | cons i before ih =>
    obtain ⟨t, ht⟩ := perform_next i (s.schedule (before ++ after))
    obtain ⟨hcfg, hinputs, -⟩ := perform_keeps ht
    have hfirst : perform i (s.schedule after) = .next (t.schedule after) :=
      perform_schedule (s := s.schedule (before ++ after)) after ht
    have hwt : t.cfg.wf = true := by rw [hcfg]; exact hw
    have hstep : step s = .next t := (step_cons hw hi).trans ht
    simp only [List.length_cons, steps, hstep, performAll, hfirst]
    exact ih hwt hinputs

/-- One step more is a step from where the others ended. -/
theorem steps_succ_of_next {n : Nat} {s u : State} (h : steps n s = .next u) :
    steps (n + 1) s = step u := by
  induction n generalizing s with
  | zero =>
    obtain rfl : s = u := by simpa [steps] using h
    cases hs : step s <;> simp [steps, hs]
  | succ n ih =>
    rw [steps] at h ⊢
    cases hs : step s with
    | next t =>
      simp only [hs] at h ⊢
      exact ih h
    | fault r => simp [hs] at h
    | refused r => simp [hs] at h

/-- A schedule with a command has a last one. -/
theorem exists_last_command {l : List Input} (h : ¬ NoCommandLeft l) :
    ∃ before i rest, l = before ++ i :: rest ∧ isCommand i = true ∧ NoCommandLeft rest := by
  induction l with
  | nil => exact absurd rfl h
  | cons i l ih =>
    by_cases hl : NoCommandLeft l
    · refine ⟨[], i, l, rfl, ?_, hl⟩
      simpa [NoCommandLeft, hl] using h
    · obtain ⟨before, j, rest, rfl, hj, hrest⟩ := ih hl
      exact ⟨i :: before, j, rest, rfl, hj, hrest⟩

/-- The length of a run is the place of its last command. -/
theorem runLength_of_last_command {before rest : List Input} {i : Input} (hi : isCommand i = true)
    (hrest : NoCommandLeft rest) : runLength (before ++ i :: rest) = before.length + 1 := by
  induction before with
  | nil => simp [runLength, hi, (runLength_eq_zero rest).mpr hrest]
  | cons j before ih => simp [runLength, ih]

/-- A run without a command ends where it starts (log 25). -/
theorem endOfRun_self {s : State} (h : NoCommandLeft s.inputs) : EndOfRun s s := by
  rw [EndOfRun, observedResult, (runLength_eq_zero _).mpr h, steps]

/-- A run with a command ends at what the step of its last command answers. -/
theorem endOfRun_of_last_command {s : State} (hw : s.cfg.wf = true) {before rest : List Input}
    {i : Input} (hs : s.inputs = before ++ i :: rest) (hi : isCommand i = true)
    (hrest : NoCommandLeft rest) :
    ∃ u t, steps before.length s = .next u ∧ u.inputs = i :: rest ∧ step u = .next t
      ∧ t.inputs = rest ∧ EndOfRun s t := by
  obtain ⟨u, hu⟩ := performAll_next before (s.schedule (i :: rest))
  have hcfg : u.cfg = s.cfg := performAll_cfg (s := s.schedule (i :: rest)) hu
  have hinputs : u.inputs = i :: rest := performAll_inputs hu
  have hwu : u.cfg.wf = true := by rw [hcfg, hw]
  obtain ⟨t, ht⟩ := perform_next i (u.schedule rest)
  obtain ⟨-, hleft, -⟩ := perform_keeps ht
  have hsteps : steps before.length s = .next u := (steps_eq_performAll hw hs).trans hu
  have hstep : step u = .next t := (step_cons hwu hinputs).trans ht
  refine ⟨u, t, hsteps, hinputs, hstep, hleft, ?_⟩
  rw [EndOfRun, observedResult, hs, runLength_of_last_command hi hrest, steps_succ_of_next hsteps,
    hstep]

/-- The steps of a run perform its inputs up to the last command, and the others stay scheduled. -/
theorem observedResult_eq_performAll {s : State} (hw : s.cfg.wf = true) {l more : List Input}
    (hs : s.inputs = l ++ more) (hmore : NoCommandLeft more) :
    observedResult s
      = performAll (l.take (runLength l)) (s.schedule (l.drop (runLength l) ++ more)) := by
  have hsplit : s.inputs = l.take (runLength l) ++ (l.drop (runLength l) ++ more) := by
    rw [← List.append_assoc, List.take_append_drop, hs]
  have hlen : (l.take (runLength l)).length = runLength l :=
    List.length_take_of_le (runLength_le l)
  rw [observedResult, hs, runLength_append l hmore, ← steps_eq_performAll hw hsplit, hlen]

/-- What is scheduled behind the last command stays scheduled at the end of the run. -/
theorem endOfRun_append {s t : State} (hw : s.cfg.wf = true) {more : List Input}
    (hmore : NoCommandLeft more) (h : EndOfRun s t) :
    EndOfRun (s.schedule (s.inputs ++ more)) (t.schedule (t.inputs ++ more)) := by
  have hrun := (observedResult_eq_performAll hw (List.append_nil _).symm rfl).symm.trans h
  have hleft := performAll_inputs hrun
  rw [State.schedule_inputs, List.append_nil] at hleft
  have hsame := performAll_schedule (t.inputs ++ more) hrun
  rw [EndOfRun, observedResult_eq_performAll (s := s.schedule (s.inputs ++ more)) hw rfl hmore,
    ← hleft]
  exact hsame

/-- Settles O60: the run's steps perform its inputs up to the last command, none of which depends on
what is scheduled behind it. -/
theorem runEndsRightAfterItsLastCommand : Obligations.RunEndsRightAfterItsLastCommand := by
  intro s hw
  refine ⟨?_, fun h => ?_, endOfRun_self, fun more t => endOfRun_append hw⟩
  · by_cases h : NoCommandLeft s.inputs
    · exact ⟨s, endOfRun_self h, h⟩
    · obtain ⟨before, i, rest, hs, hi, hrest⟩ := exists_last_command h
      obtain ⟨-, t, -, -, -, hleft, hend⟩ := endOfRun_of_last_command hw hs hi hrest
      exact ⟨t, hend, hleft.symm ▸ hrest⟩
  · obtain ⟨before, i, rest, hs, hi, hrest⟩ := exists_last_command h
    obtain ⟨u, t, hsteps, hinputs, hstep, hleft, hend⟩ := endOfRun_of_last_command hw hs hi hrest
    exact ⟨before.length, u, t, i, rest, hsteps, hinputs, hi, hrest, hstep, hleft, hend⟩

/-! ### Fair runs (R230) -/

/-- Fair descent: a step that is taken again and again leads to `P`, when each time it leads to `P` or
lowers a rank that everything else keeps. -/
theorem exists_of_fair_descent {P taken : ℕ → Prop} {rank : ℕ → ℕ} {n : ℕ}
    (hfair : ∀ k, n ≤ k → ∃ m, k ≤ m ∧ taken m)
    (htaken : ∀ m, n ≤ m → taken m → P (m + 1) ∨ rank (m + 1) < rank m)
    (hother : ∀ m, n ≤ m → ¬ taken m → rank (m + 1) = rank m) :
    ∃ m, n ≤ m ∧ P m := by
  by_contra! hnever
  have hfalls (m : ℕ) (hm : n ≤ m) (ht : taken m) : rank (m + 1) < rank m :=
    (htaken m hm ht).resolve_left (hnever (m + 1) (by omega))
  have hle {k m : ℕ} (hk : n ≤ k) (hkm : k ≤ m) : rank m ≤ rank k := by
    induction m, hkm using Nat.le_induction with
    | base => exact le_rfl
    | succ m hkm ih =>
      by_cases ht : taken m
      · exact (hfalls m (by omega) ht).le.trans ih
      · exact (hother m (by omega) ht).le.trans ih
  have hnone (b : ℕ) : ∀ k, n ≤ k → rank k ≠ b := by
    induction b using Nat.strong_induction_on with
    | _ b ih =>
      rintro k hk rfl
      obtain ⟨m, hkm, ht⟩ := hfair k hk
      have hless := (hfalls m (by omega) ht).trans_le (hle hk hkm)
      exact ih _ hless (m + 1) (by omega) rfl
  exact hnone _ n le_rfl rfl

/-- An input at which the counter keeps running changes PHASE by the TICK it performs only. -/
theorem perform_phase_of_running {i : Input} {s t : State} (h : perform i s = .next t)
    (hs : s.ptRun = true) (ht : t.ptRun = true) :
    t.phase = if performsTick i s = true then nextPhase s.cfg.wrapCompare s.wrap s.phase
      else s.phase := by
  cases i with
  | command w => simpa [performsTick, ht] using hostStep_phase h
  | hw a =>
    obtain rfl : hwStep a s = t := by simpa [perform] using h
    cases a with
    | tick => simp [hwStep, performsTick, hs]
    | carrier => simp [hwStep, performsTick]
    | switches v => simp [hwStep, performsTick]
  | reset =>
    obtain rfl : resetCore s = t := by simpa [perform] using h
    simp at ht
  | edge rst cmd sw =>
    obtain ⟨-, rfl⟩ | ⟨rfl, c, hc, rfl⟩ := clockEdge_cases h
    · simp at ht
    rw [clocked_ptRun] at ht
    have hphase : c.phase = s.phase := by simpa [ht] using edgeCommand_phase hc
    simp [edgePhase, performsTick, ht, hs, hphase]

/-- A command performed while the carrier runs leaves CARRIER (R132). -/
theorem exec_carrier_of_running {i : Instr} {s t : State} (h : exec i s = .next t)
    (hs : s.pwmRun = true) : t.carrier = s.carrier := by
  obtain ⟨-, -, -, -, -, -, hpwm, -⟩ := commandsWriteOnlyTheirRegisters i s t h
  by_contra hne
  obtain rfl := hpwm (.inr (.inl hne))
  obtain ⟨k, -, rfl⟩ | ⟨-, rfl⟩ := exec_cases h
  · exact hne rfl
  · simp [effectOf, hs] at hne

/-- A command word performed while the carrier runs leaves CARRIER and DUTY_ACT. -/
theorem hostStep_carrier_of_running {w : CmdWord} {s t : State} (h : hostStep w s = .next t)
    (hs : s.pwmRun = true) : t.carrier = s.carrier ∧ t.dutyAct = s.dutyAct := by
  refine ⟨?_, by simpa [hs] using hostStep_dutyAct h⟩
  obtain ⟨k, rfl⟩ | ⟨i, -, he⟩ := hostStep_cases h
  · rfl
  · exact exec_carrier_of_running (s := s.accept) he hs

/-- An edge's command performed while the carrier runs leaves CARRIER and DUTY_ACT. -/
theorem edgeCommand_carrier_of_running {cmd : Option CmdWord} {s t : State}
    (h : edgeCommand cmd s = .next t) (hs : s.pwmRun = true) :
    t.carrier = s.carrier ∧ t.dutyAct = s.dutyAct := by
  obtain ⟨-, rfl⟩ | ⟨w, -, hw⟩ := edgeCommand_cases h
  · exact ⟨rfl, rfl⟩
  · exact hostStep_carrier_of_running hw hs

/-- An input at which the carrier keeps running changes CARRIER and DUTY_ACT by the CARRIER_STEP it
performs only. -/
theorem perform_carrier_of_running {i : Input} {s t : State} (h : perform i s = .next t)
    (hs : s.pwmRun = true) (ht : t.pwmRun = true) :
    (t.carrier, t.dutyAct) = if performsCarrier i s = true
      then nextCarrier s.dutyBuf (s.carrier, s.dutyAct) else (s.carrier, s.dutyAct) := by
  cases i with
  | command w => simpa [performsCarrier] using hostStep_carrier_of_running h hs
  | hw a =>
    obtain rfl : hwStep a s = t := by simpa [perform] using h
    cases a with
    | tick => simp [hwStep, performsCarrier]
    | carrier => simp [hwStep, performsCarrier, nextCarrier, hs]
    | switches v => simp [hwStep, performsCarrier]
  | reset =>
    obtain rfl : resetCore s = t := by simpa [perform] using h
    simp at ht
  | edge rst cmd sw =>
    obtain ⟨-, rfl⟩ | ⟨rfl, c, hc, rfl⟩ := clockEdge_cases h
    · simp at ht
    obtain ⟨hcarrier, hact⟩ := edgeCommand_carrier_of_running hc (by simpa using hs)
    cases hdue : carrierDue s <;>
      simp [edgeCarrier, edgeDutyAct, performsCarrier, nextCarrier, hdue, hs, hcarrier, hact]

/-- A tick either gives 0 or comes nearer to the top of the 16 bits. -/
theorem nextPhase_zero_or_nearer (c : WrapCompare) (W p : Word16) :
    nextPhase c W p = 0 ∨ 65535 - (nextPhase c W p).toNat < 65535 - p.toNat := by
  obtain h | h := nextPhase_cases c W p
  · exact .inl h
  · rw [h]
    bv_omega

/-- Settles O58: PHASE only counts up until it is 0, and cannot count up for ever. -/
theorem fairCounterKeepsWrapping : Obligations.FairCounterKeepsWrapping := by
  intro schedule run hrun hfair n hruns
  have hstep (m : ℕ) (hm : n ≤ m) :=
    perform_phase_of_running (hrun m) (hruns m hm) (hruns (m + 1) (by omega))
  refine exists_of_fair_descent (P := fun m => (run m).phase = 0)
    (taken := fun m => performsTick (schedule m) (run m) = true)
    (rank := fun m => 65535 - (run m).phase.toNat)
    (fun k hk => hfair k fun m hm => hruns m (by omega))
    (fun m hm ht => ?_) (fun m hm ht => ?_)
  · have hphase := (hstep m hm).trans (if_pos ht)
    simpa only [hphase] using nextPhase_zero_or_nearer _ _ _
  · have hphase := (hstep m hm).trans (if_neg ht)
    simp only [hphase]

/-- A CARRIER_STEP either loads DUTY_BUF or comes nearer to the boundary (R134). -/
theorem nextCarrier_loads_or_nearer (buf act : Duty) (c : BitVec 8) :
    (nextCarrier buf (c, act)).2 = buf
      ∨ 255 - (nextCarrier buf (c, act)).1.toNat < 255 - c.toNat := by
  by_cases h : c = 255
  · exact .inl (by rw [h, nextCarrier_last])
  · rw [nextCarrier_of_ne h]
    right
    bv_omega

/-- Settles O59: CARRIER only counts up until its boundary, which loads the value that DUTY_BUF keeps. -/
theorem fairCarrierLoadsTheBuffer : Obligations.FairCarrierLoadsTheBuffer := by
  intro schedule run hrun hfair n d hruns
  have hstep (m : ℕ) (hm : n ≤ m) :=
    perform_carrier_of_running (hrun m) (hruns m hm).1 (hruns (m + 1) (by omega)).1
  refine exists_of_fair_descent (P := fun m => (run m).dutyAct = d)
    (taken := fun m => performsCarrier (schedule m) (run m) = true)
    (rank := fun m => 255 - (run m).carrier.toNat)
    (fun k hk => hfair k fun m hm => (hruns m (by omega)).1)
    (fun m hm ht => ?_) (fun m hm ht => ?_)
  · have hnext := nextCarrier_loads_or_nearer (run m).dutyBuf (run m).dutyAct (run m).carrier
    rw [← (hstep m hm).trans (if_pos ht), (hruns m hm).2] at hnext
    exact hnext
  · obtain ⟨hcarrier, -⟩ := Prod.mk.inj ((hstep m hm).trans (if_neg ht))
    simp only [hcarrier]

end Sys2Proof.Machine

/-! The family Exceptions (spec/60_exceptions.md): the fault of a command word and its record. -/

namespace Sys2Proof.Machine

/-- An illegal word's fault is IllegalCommand, whatever the state (R221, R244). -/
theorem faultOf_of_illegal {s : State} {w : CmdWord} {r : IllegalReason}
    (hd : decode s.cfg.variant w = .illegal r) : faultOf s w = some .illegalCommand := by
  rw [faultOf, hd]

/-- A legal word's fault is the one its command raises: a decoded command exists in the variant, so the
selector's gate never answers (R74). -/
theorem faultOf_of_cmd {s : State} {w : CmdWord} {i : Instr}
    (hd : decode s.cfg.variant w = .cmd i) : faultOf s w = commandFault i s := by
  rw [faultOf, hd]
  cases hi : i.isSelector with
  | true =>
    rw [commandFault_of_isSelector hi (variant_two_of_wf hi (wf_of_decode hd))]
    cases i with
    | selRead => rfl
    | selLookup code => rfl
    | selApply code => rfl
    | selApplySw => rfl
    | _ => cases hi
  | false =>
    cases i with
    | selRead => cases hi
    | selLookup code => cases hi
    | selApply code => cases hi
    | selApplySw => cases hi
    | _ => rfl

/-- Counting a command changes nothing that a command's fault depends on (R242). -/
theorem commandFault_accept (i : Instr) (s : State) :
    commandFault i s.accept = commandFault i s := by
  cases i <;> rfl

/-- A command's effect records no fault. -/
theorem effectOf_faults (i : Instr) (s : State) : (effectOf i s).faults = s.faults := by
  cases i with
  | ptStart => cases hr : s.ptRun <;> simp [effectOf, hr]
  | ptStop => cases hr : s.ptRun <;> simp [effectOf, hr]
  | pwmStart => cases hr : s.pwmRun <;> simp [effectOf, hr]
  | _ => rfl

/-- A command word that raises a fault only counts the command and records the fault (R243). -/
theorem hostStep_of_faultOf_some {s : State} {w : CmdWord} {k : Fault} (h : faultOf s w = some k) :
    hostStep w s = .next { s with
      cmdIndex := s.cmdIndex + 1
      faults := s.faults ++ [⟨k, s.cmdIndex + 1, w⟩] } := by
  cases hd : decode s.cfg.variant w with
  | illegal r =>
    obtain rfl : Fault.illegalCommand = k := by simpa [faultOf_of_illegal hd] using h
    exact hostStep_of_illegal hd
  | cmd i =>
    have hfault : commandFault i s.accept = some k := by
      rw [commandFault_accept, ← faultOf_of_cmd hd, h]
    rw [hostStep_of_cmd hd, exec_of_commandFault_some hfault, encode_of_decode hd]
    rfl

/-- A command word that raises no fault has its command's effect (R223). -/
theorem hostStep_of_faultOf_none {s : State} {w : CmdWord} (h : faultOf s w = none) :
    ∃ i, decode s.cfg.variant w = .cmd i ∧ hostStep w s = .next (effectOf i s.accept) := by
  cases hd : decode s.cfg.variant w with
  | illegal r => simp [faultOf_of_illegal hd] at h
  | cmd i =>
    have hfault : commandFault i s.accept = none := by
      rw [commandFault_accept, ← faultOf_of_cmd hd, h]
    exact ⟨i, rfl, (hostStep_of_cmd hd).trans (exec_of_commandFault_none hfault)⟩

/-- Settles O46: a word's fault is the decoder's or its command's, and a command's effect records
none. -/
theorem faultingCommandOnlyRecords : Obligations.FaultingCommandOnlyRecords := by
  refine fun s w => ⟨fun k => hostStep_of_faultOf_some, fun h => ?_⟩
  obtain ⟨i, -, hstep⟩ := hostStep_of_faultOf_none h
  exact ⟨_, hstep, effectOf_faults i s.accept⟩

end Sys2Proof.Machine

/-! The family ResetAndHazards (spec/70_reset_and_hazards.md): the state that a reset leaves, and a clock
edge as an interleaving of event-level steps. -/

namespace Sys2Proof.Machine

/-! ### Reset (R270, R271) -/

/-- A reset stops the carrier, so the pin is at its idle level (R135, R270). -/
theorem pwmOut_resetCore (s : State) : pwmOut (resetCore s) = s.cfg.pwmIdleLevel :=
  pwmOut_of_stopped rfl

/-- Settles O48: both forms of reset answer `resetCore`, at the edge after the pins' level, which no
register that is reset depends on. -/
theorem resetGivesEveryRegisterItsValue : Obligations.ResetGivesEveryRegisterItsValue := by
  rintro s cmd sw i (rfl | rfl)
  · exact ⟨resetCore s, rfl, by simp [pwmOut_resetCore]⟩
  · exact ⟨resetCore (s.setPins sw), rfl, by simp [pwmOut_resetCore]⟩

/-- Settles O49: a reset rebuilds the launch state from the parameters, and keeps what the launch state
leaves empty. -/
theorem launchIsTheResetState : Obligations.LaunchIsTheResetState :=
  fun _ => ⟨rfl, rfl, rfl⟩

/-- A machine launched with well-formed parameters meets the invariant: its timers are stopped, and its
prescalers, at 0, are in their ranges (R9). -/
theorem launch_coreInv {c : Config} (hw : c.wf = true) : CoreInv (State.launch c) := by
  obtain ⟨-, -, hpt, hpwm⟩ := Config.ratesWf_iff.mp (Config.wf_iff.mp hw).1
  exact ⟨hw, nofun, nofun, hpt, hpwm, List.length_replicate⟩

/-- Settles O50: the chosen parameters are well formed. -/
theorem invariantHoldsAtReset : Obligations.InvariantHoldsAtReset :=
  launch_coreInv (by decide)

/-! ### What a command does in states that the event-level model does not tell apart -/

/-- Whether a command faults is decided by what the event-level model holds. -/
theorem commandFault_sameEvents {s s' : State} (hs : SameEvents s s') (i : Instr) :
    commandFault i s = commandFault i s' := by
  obtain ⟨hcfg, -, hwrap, hptCfg, -, -, -, -, hpwmCfg, -⟩ := hs
  cases i <;> simp only [commandFault, hcfg, hwrap, hptCfg, hpwmCfg]

/-- A command's effect on what the event-level model holds depends on that alone, and on the count of
free values, of which PT_STOP takes one. -/
theorem effectOf_sameEvents {s s' : State} (hs : SameEvents s s') (hdraws : s.draws = s'.draws)
    (i : Instr) : SameEvents (effectOf i s) (effectOf i s') := by
  obtain ⟨hcfg, hphase, hwrap, hptCfg, hptRun, hbuf, hact, hcarrier, hpwmCfg, hpwmRun, hrsp, hswS,
    hfaults, hindex⟩ := hs
  cases i with
  | ptStart => cases hr : s'.ptRun <;> simp_all [SameEvents, effectOf, State.swS]
  | ptStop => cases hr : s'.ptRun <;> simp_all [SameEvents, effectOf, State.swS]
  | pwmStart => cases hr : s'.pwmRun <;> simp_all [SameEvents, effectOf, State.swS]
  | _ => simp_all [SameEvents, effectOf, State.swS, State.switchCode, State.periodOf, State.sample]

/-- A command performed in two such states leaves two such states. -/
theorem exec_sameEvents {i : Instr} {s s' t t' : State} (hs : SameEvents s s')
    (hdraws : s.draws = s'.draws) (h : exec i s = .next t) (h' : exec i s' = .next t') :
    SameEvents t t' := by
  have hfault := commandFault_sameEvents hs i
  obtain ⟨k, hk, rfl⟩ | ⟨hk, rfl⟩ := exec_cases h <;>
    obtain ⟨k', hk', rfl⟩ | ⟨hk', rfl⟩ := exec_cases h'
  · obtain rfl : k = k' := by simpa [hfault, hk'] using hk.symm
    simp_all [SameEvents, State.swS]
  · simp [hfault, hk'] at hk
  · simp [hfault, hk'] at hk
  · exact effectOf_sameEvents hs hdraws i

/-- An edge's command performed in two such states leaves two such states. -/
theorem edgeCommand_sameEvents {cmd : Option CmdWord} {s s' t t' : State} (hs : SameEvents s s')
    (hdraws : s.draws = s'.draws) (h : edgeCommand cmd s = .next t)
    (h' : edgeCommand cmd s' = .next t') : SameEvents t t' := by
  obtain ⟨rfl, rfl⟩ | ⟨w, rfl, hw⟩ := edgeCommand_cases h
  · obtain rfl : s' = t' := by simpa [edgeCommand] using h'
    exact hs
  have haccept : SameEvents s.accept s'.accept := by simp_all [SameEvents, State.swS]
  have hcfg : s.cfg = s'.cfg := hs.1
  change hostStep w s' = .next t' at h'
  cases hd : decode s.cfg.variant w with
  | cmd i =>
    rw [hostStep_of_cmd hd] at hw
    rw [hostStep_of_cmd (hcfg ▸ hd)] at h'
    exact exec_sameEvents haccept hdraws hw h'
  | illegal r =>
    rw [hostStep_of_illegal hd] at hw
    rw [hostStep_of_illegal (hcfg ▸ hd)] at h'
    rw [raise_next hw, raise_next h']
    simp_all [SameEvents, State.swS]

/-! ### The order of an edge's events (R283) -/

/-- `s` with other values of the registers that a CARRIER_STEP writes (R134). -/
def State.withCarrier (s : State) (n : BitVec 8) (d : Duty) : State :=
  { s with carrier := n, dutyAct := d }

/-- `s` with another value of the register that a TICK writes (R105). -/
def State.withPhase (s : State) (p : Word16) : State := { s with phase := p }

theorem carrierStep_eq_withCarrier (s : State) :
    carrierStep s = s.withCarrier (carrierStep s).carrier (carrierStep s).dutyAct := by
  unfold carrierStep
  split
  · split <;> rfl
  · rfl

theorem tickStep_eq_withPhase (s : State) : tickStep s = s.withPhase (tickStep s).phase := by
  unfold tickStep
  split <;> rfl

/-- The effect of a command performed while the carrier runs neither depends on CARRIER and DUTY_ACT nor
changes them: PWM_START then starts no carrier cycle (R132). -/
theorem effectOf_withCarrier {s : State} (hr : s.pwmRun = true) (i : Instr) (n : BitVec 8) (d : Duty) :
    effectOf i (s.withCarrier n d) = (effectOf i s).withCarrier n d := by
  have hr' : (s.withCarrier n d).pwmRun = true := hr
  have hpt : (s.withCarrier n d).ptRun = s.ptRun := rfl
  cases i with
  | ptStart => cases hp : s.ptRun <;> simp only [effectOf, hpt, hp] <;> rfl
  | ptStop => cases hp : s.ptRun <;> simp only [effectOf, hpt, hp] <;> rfl
  | pwmStart => simp only [effectOf, hr', hr]; rfl
  | _ => rfl

theorem exec_withCarrier {i : Instr} {s t : State} (hr : s.pwmRun = true) (h : exec i s = .next t)
    (n : BitVec 8) (d : Duty) : exec i (s.withCarrier n d) = .next (t.withCarrier n d) := by
  have hf : commandFault i (s.withCarrier n d) = commandFault i s := by cases i <;> rfl
  obtain ⟨k, hk, rfl⟩ | ⟨hk, rfl⟩ := exec_cases h
  · exact exec_of_commandFault_some (hf.trans hk)
  · rw [exec_of_commandFault_none (hf.trans hk), effectOf_withCarrier hr]

/-- An edge's command performed while the carrier runs may be moved behind a CARRIER_STEP. -/
theorem edgeCommand_withCarrier {cmd : Option CmdWord} {s c : State} (hr : s.pwmRun = true)
    (h : edgeCommand cmd s = .next c) (n : BitVec 8) (d : Duty) :
    edgeCommand cmd (s.withCarrier n d) = .next (c.withCarrier n d) := by
  obtain ⟨rfl, rfl⟩ | ⟨w, rfl, hw⟩ := edgeCommand_cases h
  · rfl
  change hostStep w (s.withCarrier n d) = _
  cases hd : decode s.cfg.variant w with
  | cmd i =>
    rw [hostStep_of_cmd hd] at hw
    rw [hostStep_of_cmd (s := s.withCarrier n d) hd]
    exact exec_withCarrier (s := s.accept) hr hw n d
  | illegal r =>
    rw [hostStep_of_illegal hd] at hw
    rw [raise_next hw]
    exact hostStep_of_illegal (s := s.withCarrier n d) hd

/-- A command that changes WRAP leaves PT_RUN and may be moved behind a TICK: PT_SET_WRAP, SEL_APPLY and
SEL_APPLY_SW neither read nor write PHASE (R101, R194, R195). -/
theorem edgeCommand_withPhase {cmd : Option CmdWord} {s c : State} (h : edgeCommand cmd s = .next c)
    (hwrap : c.wrap ≠ s.wrap) :
    c.ptRun = s.ptRun ∧ ∀ p, edgeCommand cmd (s.withPhase p) = .next (c.withPhase p) := by
  obtain ⟨-, rfl⟩ | ⟨w, rfl, hw⟩ := edgeCommand_cases h
  · exact absurd rfl hwrap
  obtain ⟨k, rfl⟩ | ⟨i, hd, he⟩ := hostStep_cases hw
  · exact absurd rfl hwrap
  obtain ⟨-, hwriter, -⟩ := commandsWriteOnlyTheirRegisters i s.accept c he
  obtain ⟨k, -, rfl⟩ | ⟨hf, rfl⟩ := exec_cases he
  · exact absurd rfl hwrap
  have hstep (p : Word16) : hostStep w (s.withPhase p) = exec i (s.withPhase p).accept :=
    hostStep_of_cmd hd
  obtain ⟨k, rfl⟩ | ⟨code, rfl⟩ | rfl := hwriter hwrap <;>
    exact ⟨rfl, fun p => (hstep p).trans (exec_of_commandFault_none hf)⟩

/-- The agent's step, when it falls at the edge. -/
def dueStep (due : Bool) (a : HwStep) : List Input := if due then [.hw a] else []

/-- The command of the edge, when it carries one (R75). -/
def commandStep (cmd : Option CmdWord) : List Input := cmd.toList.map .command

/-- The edge's command and its TICK, in an order that R283 admits: the TICK, which reads the WRAP from
before the edge, comes before a command that changes WRAP, and after every other command, which may read
the PHASE from before the edge. `s` is the state before the edge, `c` what the command left. -/
def commandAndTick (cmd : Option CmdWord) (s c : State) : List Input :=
  if c.wrap = s.wrap then commandStep cmd ++ dueStep (tickDue s) .tick
  else dueStep (tickDue s) .tick ++ commandStep cmd

/-- The command and both due steps of an edge: the CARRIER_STEP, which loads the DUTY_BUF from before the
edge, comes before the command. -/
def edgeSteps (cmd : Option CmdWord) (s c : State) : List Input :=
  dueStep (carrierDue s) .carrier ++ commandAndTick cmd s c

/-- The edge's steps between the level that its command samples and the level that the edge leaves. -/
def edgeSchedule (before after : Code) (cmd : Option CmdWord) (s c : State) : List Input :=
  .hw (.switches before) :: (edgeSteps cmd s c ++ [.hw (.switches after)])

theorem commandsOf_append (l m : List Input) : commandsOf (l ++ m) = commandsOf l ++ commandsOf m :=
  List.filterMap_append

/-- A due step is no command, and counts for its own agent. -/
theorem dueStep_counts (due : Bool) (a : HwStep) :
    (dueStep due a).all isEvent = true ∧ commandsOf (dueStep due a) = []
    ∧ ∀ b, (dueStep due a).count (.hw b) = if due = true ∧ a = b then 1 else 0 := by
  cases due <;> simp [dueStep, isEvent, commandsOf, List.count_singleton]

/-- The command of an edge is no agent's step. -/
theorem commandStep_counts (cmd : Option CmdWord) :
    (commandStep cmd).all isEvent = true ∧ commandsOf (commandStep cmd) = cmd.toList
    ∧ ∀ b, (commandStep cmd).count (.hw b) = 0 := by
  cases cmd <;> simp [commandStep, isEvent, commandsOf]

/-- The steps of an edge, in either order: its command and the steps that are due. -/
theorem edgeSteps_counts (cmd : Option CmdWord) (s c : State) :
    (edgeSteps cmd s c).all isEvent = true ∧ commandsOf (edgeSteps cmd s c) = cmd.toList
    ∧ (edgeSteps cmd s c).count (.hw .tick) = (if tickDue s then 1 else 0)
    ∧ (edgeSteps cmd s c).count (.hw .carrier) = (if carrierDue s then 1 else 0) := by
  unfold edgeSteps commandAndTick
  split <;> simp [-List.all_eq_true, commandsOf_append, dueStep_counts, commandStep_counts]

/-- The two switch changes around an edge's steps are neither commands nor due steps. -/
theorem edgeSchedule_counts (before after : Code) (cmd : Option CmdWord) (s c : State) :
    (edgeSchedule before after cmd s c).all isEvent = true
    ∧ commandsOf (edgeSchedule before after cmd s c) = cmd.toList
    ∧ (edgeSchedule before after cmd s c).count (.hw .tick) = (if tickDue s then 1 else 0)
    ∧ (edgeSchedule before after cmd s c).count (.hw .carrier)
      = (if carrierDue s then 1 else 0) := by
  have hcommands : commandsOf (edgeSchedule before after cmd s c)
      = commandsOf (edgeSteps cmd s c) ++ [] := commandsOf_append _ _
  refine ⟨?_, by simp [hcommands, edgeSteps_counts], ?_, ?_⟩ <;>
    simp [-List.all_eq_true, edgeSchedule, isEvent, edgeSteps_counts]

theorem performAll_dueStep (due : Bool) (a : HwStep) (s : State) :
    performAll (dueStep due a) s = .next (if due then hwStep a s else s) := by
  cases due <;> rfl

theorem performAll_commandStep {cmd : Option CmdWord} {s c : State} (h : edgeCommand cmd s = .next c) :
    performAll (commandStep cmd) s = .next c := by
  obtain ⟨rfl, rfl⟩ | ⟨w, rfl, hw⟩ := edgeCommand_cases h
  · rfl
  · simp [commandStep, performAll, perform, hw]

/-- The command and the TICK, one after the other, leave the PHASE of the edge. -/
theorem performAll_commandAndTick {cmd : Option CmdWord} {s c : State}
    (h : edgeCommand cmd s = .next c) :
    performAll (commandAndTick cmd s c) s = .next (c.withPhase (edgePhase s c)) := by
  have hrun : tickDue s = true → s.ptRun = true := fun hdue => (Bool.and_eq_true_iff.mp hdue).1
  unfold commandAndTick
  split
  next hwrap =>
    have hphase : edgePhase s c = if tickDue s then (tickStep c).phase else c.phase := by
      have hcases := edgeCommand_phase h
      have hcfg := edgeCommand_cfg h
      cases hdue : tickDue s <;> cases hc : c.ptRun <;> simp_all [edgePhase]
    rw [performAll_append (performAll_commandStep h), performAll_dueStep, hphase]
    cases tickDue s with
    | false => rfl
    | true => exact congrArg _ (tickStep_eq_withPhase c)
  next hwrap =>
    obtain ⟨hkeep, hmove⟩ := edgeCommand_withPhase h hwrap
    rw [performAll_append (performAll_dueStep _ _ _), edgePhase]
    cases hdue : tickDue s with
    | false => exact performAll_commandStep h
    | true =>
      rw [hkeep, hrun hdue, if_pos rfl, hwStep, tickStep_eq_withPhase s]
      exact performAll_commandStep (hmove _)

/-- The CARRIER_STEP before the command leaves the CARRIER and the DUTY_ACT of the edge. -/
theorem edgeCommand_after_carrier {cmd : Option CmdWord} {s c : State}
    (h : edgeCommand cmd s = .next c) :
    ∃ n d, performAll (dueStep (carrierDue s) .carrier) s = .next (s.withCarrier n d)
      ∧ edgeCommand cmd (s.withCarrier n d)
        = .next (c.withCarrier (edgeCarrier s c) (edgeDutyAct s c)) := by
  rw [performAll_dueStep, edgeCarrier, edgeDutyAct]
  cases hdue : carrierDue s with
  | false => exact ⟨s.carrier, s.dutyAct, rfl, h⟩
  | true =>
    have hrun : s.pwmRun = true := (Bool.and_eq_true_iff.mp hdue).1
    exact ⟨_, _, congrArg _ (carrierStep_eq_withCarrier s), edgeCommand_withCarrier hrun h _ _⟩

/-- What the edge's steps leave: the command's state with PHASE, CARRIER and DUTY_ACT as the edge leaves
them. The edge itself moves the prescalers and shifts the stages besides (R282). -/
def afterEdgeSteps (s c : State) : State :=
  (c.withCarrier (edgeCarrier s c) (edgeDutyAct s c)).withPhase (edgePhase s c)

/-- The PHASE that an edge leaves does not depend on the carrier. -/
theorem edgePhase_withCarrier (s c : State) (n m : BitVec 8) (d e : Duty) :
    edgePhase (s.withCarrier n d) (c.withCarrier m e) = edgePhase s c := by
  simp only [edgePhase, tickStep_phase]
  rfl

theorem performAll_edgeSteps {cmd : Option CmdWord} {s c : State} (h : edgeCommand cmd s = .next c) :
    performAll (edgeSteps cmd s c) s = .next (afterEdgeSteps s c) := by
  obtain ⟨n, d, hcarrier, hcommand⟩ := edgeCommand_after_carrier h
  rw [edgeSteps, performAll_append hcarrier, afterEdgeSteps, ← edgePhase_withCarrier]
  exact performAll_commandAndTick hcommand

/-- The schedule of an edge, performed: a switch change, the edge's steps, a switch change. -/
theorem performAll_edgeSchedule {before : Code} {cmd : Option CmdWord} {s c : State}
    (h : edgeCommand cmd (switchStep before s) = .next c) (after : Code) :
    performAll (edgeSchedule before after cmd (switchStep before s) c) s
      = .next (switchStep after (afterEdgeSteps (switchStep before s) c)) := by
  change performAll (edgeSteps _ _ _ ++ _) (switchStep before s) = _
  rw [performAll_append (performAll_edgeSteps h)]
  rfl

/-! ### The edge and its schedule agree (R283) -/

/-- What an edge's steps leave of two states that the event-level model does not tell apart. -/
theorem afterEdgeSteps_sameEvents {s s' c c' : State} (hs : SameEvents s s')
    (hpt : s.ptPre = s'.ptPre) (hpwm : s.pwmPre = s'.pwmPre) (hc : SameEvents c c') :
    SameEvents (afterEdgeSteps s c) (afterEdgeSteps s' c') := by
  have hphase : edgePhase s c = edgePhase s' c' := by simp_all [SameEvents, edgePhase, tickDue]
  have hcarrier : edgeCarrier s c = edgeCarrier s' c' := by
    simp_all [SameEvents, edgeCarrier, carrierDue]
  have hact : edgeDutyAct s c = edgeDutyAct s' c' := by
    simp_all [SameEvents, edgeDutyAct, carrierDue]
  obtain ⟨hcfg, -, hwrap, hptCfg, hptRun, hbuf, -, -, hrest⟩ := hc
  exact ⟨hcfg, hphase, hwrap, hptCfg, hptRun, hbuf, hact, hcarrier, hrest⟩

/-- A SwitchEnv step brings the level of another state, where the two states differ in the switch inputs
only; in VARIANT 1 it brings nothing, and the level has to be the same (R42, R196). -/
theorem sameEvents_switchStep {s t : State}
    (h : SameEvents t { s with sw := t.sw, sync := t.sync })
    (hone : s.cfg.variant = .one → t.swS = s.swS) : SameEvents t (switchStep t.swS s) := by
  have hlevel : (switchStep t.swS s).swS = t.swS := by
    cases hv : s.cfg.variant with
    | one => rw [switchStep_of_one hv, hone hv]
    | two => rw [switchStep_of_two hv, setSwS_swS]
  obtain ⟨hcfg, hphase, hwrap, hptCfg, hptRun, hbuf, hact, hcarrier, hpwmCfg, hpwmRun, hrsp, -,
    hfaults, hindex⟩ := h
  simp [SameEvents, hlevel, hcfg, hphase, hwrap, hptCfg, hptRun, hbuf, hact, hcarrier, hpwmCfg,
    hpwmRun, hrsp, hfaults, hindex]

/-- The command of an edge samples the level that a SwitchEnv step before it brings. -/
theorem setPins_sameEvents (s : State) (v : Code) :
    SameEvents (s.setPins v).noResponse (switchStep (s.setPins v).swS s) := by
  refine sameEvents_switchStep (t := (s.setPins v).noResponse) ?_ fun hv => ?_
  · simp [SameEvents, State.swS]
  · simp [State.swS, State.setPins, hv]

/-- The level that an edge leaves is brought to its steps by a SwitchEnv step behind them; without stages
in VARIANT 1 that level is the one the command leaves (R33, R42). -/
theorem clocked_sameEvents {s c c' : State} (hsteps : SameEvents (afterEdgeSteps s c) c')
    (hone : c'.cfg.variant = .one → s.sync = [] ∧ c.sync = []) :
    SameEvents (clocked s c) (switchStep (clocked s c).swS c') := by
  obtain ⟨hcfg, hphase, hwrap, hptCfg, hptRun, hbuf, hact, hcarrier, hpwmCfg, hpwmRun, hrsp, hswS,
    hrest⟩ := hsteps
  refine sameEvents_switchStep ⟨hcfg, hphase, hwrap, hptCfg, hptRun, hbuf, hact, hcarrier, hpwmCfg,
    hpwmRun, hrsp, rfl, hrest⟩ fun hv => ?_
  obtain ⟨hs, hc⟩ := hone hv
  have hleft : (afterEdgeSteps s c).swS = c.swS := rfl
  rw [← hswS, hleft]
  simp [State.swS, shiftSync, hs, hc]

/-- Settles O57: the edge's command is performed as from the state before the edge, since each due step
stands on the side of it that R283 admits; a switch change on either side brings the level that the
command samples and the level that the edge leaves. -/
theorem clockEdgeIsAnInterleaving : Obligations.ClockEdgeIsAnInterleaving := by
  rintro s t cmd sw ⟨-, -, -, -, -, hstages⟩ h
  obtain ⟨hr, -⟩ | ⟨-, c, hc, rfl⟩ := clockEdge_cases h
  · cases hr
  obtain ⟨c', hc'⟩ := edgeCommand_next cmd (switchStep (s.setPins sw).swS s)
  have hstart := setPins_sameEvents s sw
  have hsteps : SameEvents (afterEdgeSteps (s.setPins sw) c)
      (afterEdgeSteps (switchStep (s.setPins sw).swS s) c') :=
    afterEdgeSteps_sameEvents hstart (by simp) (by simp)
      (edgeCommand_sameEvents hstart (by simp) hc hc')
  have hone (hv : c'.cfg.variant = .one) : (s.setPins sw).sync = [] ∧ c.sync = [] := by
    have hnone : s.sync = [] := by
      rw [edgeCommand_cfg hc', switchStep_cfg] at hv
      simpa [syncStages, hv] using hstages
    simp [(edgeCommand_sync hc).2, hnone]
  obtain ⟨hevents, hcommands, hticks, hcarriers⟩ := edgeSchedule_counts (s.setPins sw).swS
    (clocked (s.setPins sw) c).swS cmd (switchStep (s.setPins sw).swS s) c'
  exact ⟨_, _, hevents, hcommands, by simpa [tickDue] using hticks,
    by simpa [carrierDue] using hcarriers, performAll_edgeSchedule hc' _,
    clocked_sameEvents hsteps hone⟩

end Sys2Proof.Machine
